-- ==== Sys2Proof/Word.lean ====
section
/-! DEFINITION. The words of the pin core: the widths of 30_encoding.md R80 and 00_scope.md R8.
Every number of the block is unsigned (R8), so every width is a plain bit vector. -/

namespace Sys2Proof

/-- A command or response word (R80, R85). -/
abbrev Word := BitVec 32

/-- One byte of a transport that serialises words (20_memory.md R61). -/
abbrev Byte := BitVec 8

/-- One bit: a digital level, a write level, the fault bit of `ACK`. -/
abbrev Bit := BitVec 1

/-- The `op` field of a command word (R80). -/
abbrev Opcode := BitVec 4

/-- The event kind of a key (R83). -/
abbrev Kind := BitVec 4

/-- A pin address, or the address part of a key (R80). -/
abbrev Addr := BitVec 8

/-- A listener id, `LISTENER_BITS` = 16 (00_scope.md R7). -/
abbrev Listener := BitVec 16

/-- A payload value, or a sample carried in 16 bits (20_memory.md R63). -/
abbrev Value := BitVec 16

/-- The opaque mode argument of `SETMODE` (40_direct_io.md R114). -/
abbrev Mode := BitVec 8

/-- A multiplexer channel, 0..15 (20_memory.md R52). -/
abbrev Channel := BitVec 4

end Sys2Proof
end

