-- ==== Sys2Proof/Syntax.lean ====
section
/-! DEFINITION. The commands of the pin core (30_encoding.md R80 to R84), one constructor of `Instr` per row of
spec/opcode_table.json, and the assembler-level forms of R92 and R93 that expand to them. -/

namespace Sys2Proof

/-- A message key: the pair (kind, addr), compared by value (R84). Every one of the 4096 keys is legal. -/
structure Key where
  kind : Kind
  addr : Addr
  deriving DecidableEq, Repr, Inhabited

/-- The nine commands (R81). Each field is one field of the command word (R82), at exactly its width, so every
term of this type is a command: there is no ill-formed `Instr`. -/
inductive Instr where
  /-- `TICK`, 41_sampling.md R140. -/
  | tick
  /-- `SUB key, l`, 42_event_bus.md R180. -/
  | sub (key : Key) (listener : Listener)
  /-- `UNSUB key, l`, 42_event_bus.md R181. -/
  | unsub (key : Key) (listener : Listener)
  /-- `PUB key, v`, 42_event_bus.md R182. -/
  | pub (key : Key) (value : Value)
  /-- `DREAD a`, 40_direct_io.md R111. -/
  | dread (addr : Addr)
  /-- `DWRITE a, b`, 40_direct_io.md R112. -/
  | dwrite (addr : Addr) (level : Bit)
  /-- `AREAD a`, 40_direct_io.md R113. -/
  | aread (addr : Addr)
  /-- `SETMODE a, m`, 40_direct_io.md R114. -/
  | setmode (addr : Addr) (mode : Mode)
  /-- `ACK` (fault = 0) or `ACK fault` (fault = 1), 42_event_bus.md R185. -/
  | ack (fault : Bit)
  deriving DecidableEq, Repr, Inhabited

/-- Why a command word is illegal (R89). -/
inductive IllegalCause where
  /-- `op` is 0x9..0xF. -/
  | reservedOpcode
  /-- A field R82 marks `0` is not zero. -/
  | reservedField
  deriving DecidableEq, Repr

/-- The names of the event kinds (R83). `user n` is the text `User<n>`; it names a kind for n in 4..15 only. -/
inductive KindName where
  | digitalRising
  | digitalFalling
  | digitalChange
  | analogChange
  | user (n : Nat)
  deriving DecidableEq, Repr

/-- A key as the assembler's text names it, `<Kind>@<addr>` (R92). -/
structure AsmKey where
  kind : KindName
  addr : Nat
  deriving DecidableEq, Repr

/-- The text forms of the commands (R92), their numbers not yet fitted into fields. -/
inductive AsmCmd where
  | tick
  | sub (key : AsmKey) (listener : Nat)
  | unsub (key : AsmKey) (listener : Nat)
  | pub (key : AsmKey) (value : Nat)
  | dread (addr : Nat)
  | dwrite (addr : Nat) (level : Nat)
  | aread (addr : Nat)
  | setmode (addr : Nat) (mode : Nat)
  | ack (fault : Bool)
  deriving DecidableEq, Repr

/-- The source's interface calls, the pseudo-instructions of R93. `publish` takes the payload's value. -/
inductive SourceCall where
  | subscribeDigitalRising (addr : Nat) (listener : Nat)
  | subscribeDigitalFalling (addr : Nat) (listener : Nat)
  | subscribeDigitalChange (addr : Nat) (listener : Nat)
  | subscribeAnalogChange (addr : Nat) (listener : Nat)
  | unsubscribeDigitalRising (addr : Nat) (listener : Nat)
  | unsubscribeDigitalFalling (addr : Nat) (listener : Nat)
  | unsubscribeDigitalChange (addr : Nat) (listener : Nat)
  | unsubscribeAnalogChange (addr : Nat) (listener : Nat)
  | subscribe (key : AsmKey) (listener : Nat)
  | unsubscribe (key : AsmKey) (listener : Nat)
  | publish (key : AsmKey) (value : Nat)
  | digitalRead (addr : Nat)
  | digitalWrite (addr : Nat) (level : Nat)
  | analogRead (addr : Nat)
  | setPinMode (addr : Nat) (mode : Nat)
  | listenerReturns
  | listenerThrows
  deriving DecidableEq, Repr

end Sys2Proof
end

