-- ==== Sys2Proof/WellFormed.lean ====
section
/-! DEFINITION. Which assembler terms are commands: "A value that does not fit its field is an assembly error,
not a command" (30_encoding.md R92). An `Instr` holds fields of exact width and needs no check. -/

namespace Sys2Proof

/-- The kind has a number: `User<n>` names one for n in 4..15 (R83). -/
def KindName.wellFormed : KindName → Bool
  | .user n => decide (4 ≤ n) && decide (n ≤ 15)
  | _ => true

/-- The kind is one of R83 and the address fits 8 bits. -/
def AsmKey.wellFormed (k : AsmKey) : Bool :=
  k.kind.wellFormed && decide (k.addr < 256)

/-- Every number of the form fits its field of R82: 8 bits for an address or a mode, 16 for a listener or a
value, 1 for a level. -/
def AsmCmd.wellFormed : AsmCmd → Bool
  | .tick => true
  | .sub k l => k.wellFormed && decide (l < 65536)
  | .unsub k l => k.wellFormed && decide (l < 65536)
  | .pub k v => k.wellFormed && decide (v < 65536)
  | .dread a => decide (a < 256)
  | .dwrite a b => decide (a < 256) && decide (b < 2)
  | .aread a => decide (a < 256)
  | .setmode a m => decide (a < 256) && decide (m < 256)
  | .ack _ => true

end Sys2Proof
end

