-- ==== Sys2Proof/Decode.lean ====
section
/-! DEFINITION. Decoding and encoding of command words (30_encoding.md R80 to R82, R89 to R91), the byte order of
a transport (20_memory.md R61, R62), and the assembler forms (R92, R93). -/

namespace Sys2Proof

/-! ## The fields of a command word (R80) -/

def opField (w : Word) : Opcode := w.extractLsb' 28 4
def kindField (w : Word) : Kind := w.extractLsb' 24 4
def addrField (w : Word) : Addr := w.extractLsb' 16 8
def opdField (w : Word) : BitVec 16 := w.extractLsb' 0 16

/-- The command word with the given fields, `op` in the high bits (R80). -/
def packWord (op : Opcode) (kind : Kind) (addr : Addr) (opd : BitVec 16) : Word :=
  op ++ kind ++ addr ++ opd

/-! ## Decoding (R90) -/

/-- `decode(w)` of R90: a total function of the 32-bit word; what decodes to no command is rejected by cause. -/
def decode (w : Word) : Except IllegalCause Instr :=
  let kind := kindField w
  let addr := addrField w
  let opd := opdField w
  match (opField w).toNat with
  | 0 => if w = 0 then .ok .tick else .error .reservedField
  | 1 => .ok (.sub ⟨kind, addr⟩ opd)
  | 2 => .ok (.unsub ⟨kind, addr⟩ opd)
  | 3 => .ok (.pub ⟨kind, addr⟩ opd)
  | 4 => if kind = 0 ∧ opd = 0 then .ok (.dread addr) else .error .reservedField
  | 5 =>
    if kind = 0 ∧ opd.extractLsb' 1 15 = 0 then .ok (.dwrite addr (opd.extractLsb' 0 1))
    else .error .reservedField
  | 6 => if kind = 0 ∧ opd = 0 then .ok (.aread addr) else .error .reservedField
  | 7 =>
    if kind = 0 ∧ opd.extractLsb' 8 8 = 0 then .ok (.setmode addr (opd.extractLsb' 0 8))
    else .error .reservedField
  | 8 =>
    if kind = 0 ∧ addr = 0 ∧ opd.extractLsb' 1 15 = 0 then .ok (.ack (opd.extractLsb' 0 1))
    else .error .reservedField
  | _ => .error .reservedOpcode

/-! ## Encoding (R82) -/

/-- The opcode of a command (R81). -/
def opcodeOf : Instr → Opcode
  | .tick => 0x0
  | .sub _ _ => 0x1
  | .unsub _ _ => 0x2
  | .pub _ _ => 0x3
  | .dread _ => 0x4
  | .dwrite _ _ => 0x5
  | .aread _ => 0x6
  | .setmode _ _ => 0x7
  | .ack _ => 0x8

/-- The word of a command, field by field as R82 lays it out; unused fields are 0. -/
def encode (i : Instr) : Word :=
  match i with
  | .tick => packWord (opcodeOf i) 0 0 0
  | .sub k l => packWord (opcodeOf i) k.kind k.addr l
  | .unsub k l => packWord (opcodeOf i) k.kind k.addr l
  | .pub k v => packWord (opcodeOf i) k.kind k.addr v
  | .dread a => packWord (opcodeOf i) 0 a 0
  | .dwrite a b => packWord (opcodeOf i) 0 a (b.setWidth 16)
  | .aread a => packWord (opcodeOf i) 0 a 0
  | .setmode a m => packWord (opcodeOf i) 0 a (m.setWidth 16)
  | .ack f => packWord (opcodeOf i) 0 0 (f.setWidth 16)

/-! ## Words as bytes (20_memory.md R61, R62) -/

/-- The n bytes of a number as a transport sends them, least significant first (R61). -/
def bytesLE : Nat → Nat → List Byte
  | 0, _ => []
  | n + 1, v => BitVec.ofNat 8 v :: bytesLE n (v / 256)

/-- The number of a list of bytes, the first the least significant (R61). -/
def ofBytesLE : List Byte → Nat
  | [] => 0
  | b :: bs => b.toNat + 256 * ofBytesLE bs

/-- Take one whole transfer of n bytes from a stream and give the bytes after it. Fewer are a partial word, which
delivers nothing (R62). -/
def receive (width n : Nat) (bs : List Byte) : Option (BitVec width × List Byte) :=
  if bs.length < n then none else some (BitVec.ofNat width (ofBytesLE (bs.take n)), bs.drop n)

/-- The bytes of a command word, and of a response word (R61). -/
def bytesOfWord (w : Word) : List Byte := bytesLE 4 w.toNat

/-- The bytes of a delivery record (R61). -/
def bytesOfDelivery (r : BitVec 48) : List Byte := bytesLE 6 r.toNat

/-- The bytes of a log record (R61). -/
def bytesOfLog (r : BitVec 64) : List Byte := bytesLE 8 r.toNat

/-- A command or response word from a stream of bytes. -/
def receiveWord : List Byte → Option (Word × List Byte) := receive 32 4

/-- A delivery record from a stream of bytes. -/
def receiveDelivery : List Byte → Option (BitVec 48 × List Byte) := receive 48 6

/-- A log record from a stream of bytes. -/
def receiveLog : List Byte → Option (BitVec 64 × List Byte) := receive 64 8

/-- Decode the first command of a byte stream and give the bytes after it; a partial word delivers no command
(R62). -/
def decodeBytes (bs : List Byte) : Option (Except IllegalCause Instr × List Byte) :=
  (receiveWord bs).map fun p => (decode p.1, p.2)

/-- The word whose `nbits` low bits are those of `w`, every bit above them 0. -/
def tableWord (nbits w : Nat) : Word := BitVec.ofNat 32 (w % 2 ^ nbits)

/-- What the decoder reads from a row of spec/opcode_table.json, through the transport's bytes. -/
def decodeTableWord (nbits w : Nat) : Option Instr :=
  match decodeBytes (bytesOfWord (tableWord nbits w)) with
  | some (.ok i, _) => some i
  | _ => none

/-! ## Assembler forms (R92, R93) -/

/-- The number of a named kind (R83). -/
def kindNumber : KindName → Kind
  | .digitalRising => 0
  | .digitalFalling => 1
  | .digitalChange => 2
  | .analogChange => 3
  | .user n => BitVec.ofNat 4 n

/-- The name of a kind's number (R83). -/
def kindName (k : Kind) : KindName :=
  match k.toNat with
  | 0 => .digitalRising
  | 1 => .digitalFalling
  | 2 => .digitalChange
  | 3 => .analogChange
  | n => .user n

/-- The key an assembler key names (R84). -/
def asmKey (k : AsmKey) : Key := ⟨kindNumber k.kind, BitVec.ofNat 8 k.addr⟩

/-- The fields of a form whose numbers fit (R92). -/
def asmFields : AsmCmd → Instr
  | .tick => .tick
  | .sub k l => .sub (asmKey k) (BitVec.ofNat 16 l)
  | .unsub k l => .unsub (asmKey k) (BitVec.ofNat 16 l)
  | .pub k v => .pub (asmKey k) (BitVec.ofNat 16 v)
  | .dread a => .dread (BitVec.ofNat 8 a)
  | .dwrite a b => .dwrite (BitVec.ofNat 8 a) (BitVec.ofNat 1 b)
  | .aread a => .aread (BitVec.ofNat 8 a)
  | .setmode a m => .setmode (BitVec.ofNat 8 a) (BitVec.ofNat 8 m)
  | .ack f => .ack (if f then 1 else 0)

/-- Assemble a form: "A value that does not fit its field is an assembly error, not a command" (R92). -/
def assemble (c : AsmCmd) : Option Instr :=
  if c.wellFormed then some (asmFields c) else none

/-- The one command each source call expands to (R93). -/
def expandCall : SourceCall → AsmCmd
  | .subscribeDigitalRising a l => .sub ⟨.digitalRising, a⟩ l
  | .subscribeDigitalFalling a l => .sub ⟨.digitalFalling, a⟩ l
  | .subscribeDigitalChange a l => .sub ⟨.digitalChange, a⟩ l
  | .subscribeAnalogChange a l => .sub ⟨.analogChange, a⟩ l
  | .unsubscribeDigitalRising a l => .unsub ⟨.digitalRising, a⟩ l
  | .unsubscribeDigitalFalling a l => .unsub ⟨.digitalFalling, a⟩ l
  | .unsubscribeDigitalChange a l => .unsub ⟨.digitalChange, a⟩ l
  | .unsubscribeAnalogChange a l => .unsub ⟨.analogChange, a⟩ l
  | .subscribe k l => .sub k l
  | .unsubscribe k l => .unsub k l
  | .publish k v => .pub k v
  | .digitalRead a => .dread a
  | .digitalWrite a b => .dwrite a b
  | .analogRead a => .aread a
  | .setPinMode a m => .setmode a m
  | .listenerReturns => .ack false
  | .listenerThrows => .ack true

/-- The text of a kind (R83). -/
def kindText (k : Kind) : String :=
  match kindName k with
  | .digitalRising => "DigitalRising"
  | .digitalFalling => "DigitalFalling"
  | .digitalChange => "DigitalChange"
  | .analogChange => "AnalogChange"
  | .user n => "User" ++ toString n

/-- The text of a key, `<EventKind>@<address>` with the address in decimal (R84). -/
def keyText (k : Key) : String := kindText k.kind ++ "@" ++ toString k.addr.toNat

/-- The text form of a command, its numbers in decimal (R92). -/
def instrText : Instr → String
  | .tick => "TICK"
  | .sub k l => "SUB " ++ keyText k ++ ", L" ++ toString l.toNat
  | .unsub k l => "UNSUB " ++ keyText k ++ ", L" ++ toString l.toNat
  | .pub k v => "PUB " ++ keyText k ++ ", " ++ toString v.toNat
  | .dread a => "DREAD " ++ toString a.toNat
  | .dwrite a b => "DWRITE " ++ toString a.toNat ++ ", " ++ toString b.toNat
  | .aread a => "AREAD " ++ toString a.toNat
  | .setmode a m => "SETMODE " ++ toString a.toNat ++ ", " ++ toString m.toNat
  | .ack f => if f = 1 then "ACK fault" else "ACK"

/-! ## Reading the text (R92; what the rule leaves open of the layout is assumption log 19) -/

/-- The text without the spaces around it. -/
def trimSpaces (cs : List Char) : List Char :=
  ((cs.dropWhile (· == ' ')).reverse.dropWhile (· == ' ')).reverse

/-- The parts of the text between its commas. -/
def splitCommas : List Char → List (List Char)
  | [] => [[]]
  | c :: cs =>
    if c == ',' then [] :: splitCommas cs
    else
      match splitCommas cs with
      | part :: parts => (c :: part) :: parts
      | [] => [[c]]

/-- The value of a digit in a base. -/
def digitValue (base : Nat) (c : Char) : Option Nat :=
  let n := c.toNat
  let v := if 48 ≤ n ∧ n ≤ 57 then n - 48 else if 97 ≤ n ∧ n ≤ 102 then n - 87
    else if 65 ≤ n ∧ n ≤ 70 then n - 55 else base
  if v < base then some v else none

/-- The number written by digits after those whose number is acc. -/
def digitsValue (base : Nat) : Nat → List Char → Option Nat
  | acc, [] => some acc
  | acc, c :: cs => (digitValue base c).bind (fun v => digitsValue base (acc * base + v) cs)

/-- "numbers are decimal or `0x`-prefixed hexadecimal" (R92). DESIGN CHOICE (assumption log 19): a number holds digits
only; the `_` with which 00_scope.md R8 separates the spec's own digits makes it no number. -/
def parseNumber : List Char → Option Nat
  | [] => none
  | '0' :: 'x' :: d :: ds => digitsValue 16 0 (d :: ds)
  | c :: cs => digitsValue 10 0 (c :: cs)

/-- A name of R83. -/
def parseKind (cs : List Char) : Option KindName :=
  (((List.range 16).map (BitVec.ofNat 4)).find? (fun k => (kindText k).toList == cs)).map kindName

/-- `<Kind>@<addr>`. -/
def parseKey (cs : List Char) : Option AsmKey :=
  match cs.dropWhile (· != '@') with
  | _ :: addr => (parseKind (cs.takeWhile (· != '@'))).bind fun k => (parseNumber addr).map fun a => ⟨k, a⟩
  | [] => none

/-- `L<n>`. -/
def parseListener : List Char → Option Nat
  | 'L' :: n => parseNumber n
  | _ => none

/-- A form with one number. -/
def parseOne (form : Nat → AsmCmd) : List (List Char) → Option AsmCmd
  | [a] => (parseNumber a).map form
  | _ => none

/-- A form with two numbers. -/
def parseTwo (form : Nat → Nat → AsmCmd) : List (List Char) → Option AsmCmd
  | [a, b] => (parseNumber a).bind fun x => (parseNumber b).map (form x)
  | _ => none

/-- A form with a key and a second operand, read as `second` says. -/
def parseKeyed (form : AsmKey → Nat → AsmCmd) (second : List Char → Option Nat) :
    List (List Char) → Option AsmCmd
  | [k, b] => (parseKey k).bind fun key => (second b).map (form key)
  | _ => none

/-- The form a line of assembler text names (R92). -/
def parseAsm (line : List Char) : Option AsmCmd :=
  let cs := trimSpaces line
  let mnemonic := cs.takeWhile (· != ' ')
  let operands := (splitCommas (cs.dropWhile (· != ' '))).map trimSpaces
  if mnemonic == "TICK".toList then (if operands == [[]] then some .tick else none)
  else if mnemonic == "SUB".toList then parseKeyed .sub parseListener operands
  else if mnemonic == "UNSUB".toList then parseKeyed .unsub parseListener operands
  else if mnemonic == "PUB".toList then parseKeyed .pub parseNumber operands
  else if mnemonic == "DREAD".toList then parseOne .dread operands
  else if mnemonic == "DWRITE".toList then parseTwo .dwrite operands
  else if mnemonic == "AREAD".toList then parseOne .aread operands
  else if mnemonic == "SETMODE".toList then parseTwo .setmode operands
  else if mnemonic == "ACK".toList then
    (if operands == [[]] then some (.ack false)
    else if operands == ["fault".toList] then some (.ack true) else none)
  else none

/-- The command a line of assembler text stands for, or none: an assembly error (R92). -/
def assembleText (line : String) : Option Instr :=
  (parseAsm line.toList).bind assemble

end Sys2Proof
end

