-- ==== Sys2Proof/Config.lean ====
section
/-! DEFINITION. What is fixed outside the block: the parameters of 00_scope.md R7, and the free values of the
environment (10_state.md R33): the moves of HOST, TIMER and RESET, and the answers of the devices. -/

namespace Sys2Proof

/-- The values `MUX_CHANNELS` may take: 16 is the spec's, 8 keeps §4.2's reading (90_conflicts.md C2). -/
inductive MuxSize where
  | eight
  | sixteen
  deriving DecidableEq, Repr, Inhabited

/-- The parameters of 00_scope.md R7. Each OPEN one is held as its offset in its range, so that every term of this
type is a legal configuration; the accessors below give the spec's own names. -/
structure Params where
  /-- `ADC_BITS` - 12. -/
  adcExtra : Fin 5
  /-- `SUB_CAPACITY` - 1. -/
  capExtra : Fin 4095
  /-- `MAX_DEPTH` - 3. -/
  depthExtra : Nat
  /-- `RISING_LEVEL`. -/
  risingLevel : Bit
  /-- `MUX_CHANNELS`. -/
  muxSize : MuxSize
  /-- `EXP_ADDR_A`. -/
  expAddrA : BitVec 7
  /-- `EXP_ADDR_B` - `EXP_ADDR_A` - 1 (mod 128): B is one of the 127 other addresses. -/
  expGapB : Fin 127
  /-- Which of the 126 addresses left is `EXP_ADDR_C`, counted up from A with B skipped. -/
  expGapC : Fin 126
  /-- `SAMPLE_PERIOD`; no rule depends on it (70_reset_and_hazards.md R272). R7 gives it neither a range nor a unit;
  that it is a natural number, 0 included, of a unit not named is a DESIGN CHOICE (assumption log 3). -/
  samplePeriod : Nat
  deriving DecidableEq, Repr, Inhabited

/-- `ADC_BITS`, an integer in 12..16 (R7). -/
def Params.adcBits (p : Params) : Nat := 12 + p.adcExtra.val

/-- `SUB_CAPACITY`, an integer in 1..4095 (R7). -/
def Params.subCapacity (p : Params) : Nat := 1 + p.capExtra.val

/-- `MAX_DEPTH`, an integer of at least 3 (R7). -/
def Params.maxDepth (p : Params) : Nat := 3 + p.depthExtra

/-- `MUX_CHANNELS` (R7). -/
def Params.muxChannels (p : Params) : Nat :=
  match p.muxSize with
  | .eight => 8
  | .sixteen => 16

/-- `EXP_ADDR_B` (R7). -/
def Params.expAddrB (p : Params) : BitVec 7 := p.expAddrA + BitVec.ofNat 7 (1 + p.expGapB.val)

/-- `EXP_ADDR_C` (R7). -/
def Params.expAddrC (p : Params) : BitVec 7 :=
  p.expAddrA + BitVec.ofNat 7 (if p.expGapC.val < p.expGapB.val then 1 + p.expGapC.val else 2 + p.expGapC.val)

/-- One answer of a device to one access (20_memory.md R59): `ok = false` is `FAIL`; otherwise the access takes as
many low bits of `value` as it carries. -/
structure Draw where
  ok : Bool
  value : BitVec 16
  deriving DecidableEq, Repr, Inhabited

/-- One move of the model: which agent of 00_scope.md R6 steps next (60_exceptions.md R243). -/
inductive Input where
  /-- SEQ: the sequencer takes its enabled step, if it has one. -/
  | seq
  /-- HOST: a word is offered on the command port. -/
  | host (w : Word)
  /-- TIMER: the tick input is raised. -/
  | tick
  /-- RESET: the reset input is taken. -/
  | reset
  deriving DecidableEq, Repr, Inhabited

/-! The OPEN parameters of R7 (assumption log 3). No proof can see their values. -/

opaque Config.adcExtra : Fin 5
opaque Config.capExtra : Fin 4095
opaque Config.depthExtra : Nat
opaque Config.expAddrA : BitVec 7
opaque Config.expGapB : Fin 127
opaque Config.expGapC : Fin 126
opaque Config.samplePeriod : Nat

/-- The configuration of this block: the OPEN parameters opaque, `RISING_LEVEL` = 1 and `MUX_CHANNELS` = 16 as R7
fixes them (assumption log 4). -/
def Config.params : Params where
  adcExtra := Config.adcExtra
  capExtra := Config.capExtra
  depthExtra := Config.depthExtra
  risingLevel := 1
  muxSize := .sixteen
  expAddrA := Config.expAddrA
  expGapB := Config.expGapB
  expGapC := Config.expGapC
  samplePeriod := Config.samplePeriod

/-- FREE VALUE (assumption log 2): the n-th answer of the devices, any value or `FAIL` (20_memory.md R59). -/
opaque Config.draw : Nat → Draw

/-- FREE VALUE (assumption log 1): the n-th move of the environment, any agent and any word (60_exceptions.md
R243). -/
opaque Config.environment : Nat → Input

end Sys2Proof
end

