-- ==== Sys2Proof/Machine/State.lean ====
section
/-! DEFINITION. The state of the pin core (10_state.md R24 to R31), the output traces (R32), the inputs of the step
(R33), and what reset leaves (70_reset_and_hazards.md R260). -/

namespace Sys2Proof.Machine

/-- The devices a digital address reaches (20_memory.md R51). -/
inductive Device where
  | expA
  | expB
  | expC
  | localBank
  deriving DecidableEq, Repr

/-- What a device access returns: `OK(v)` or `FAIL` (00_scope.md R10). -/
inductive Answer (n : Nat) where
  | ok (v : BitVec n)
  | fail
  deriving DecidableEq, Repr

/-- One record of `DEVHIST` (20_memory.md R60). Select line `S_i` of the multiplexer is bit i of the channel of
`muxSelect` (R56; PRESUMED, assumption log 14). -/
inductive DevRecord where
  | devRead (dev : Device) (idx : Nat) (r : Answer 1)
  | devWrite (dev : Device) (idx : Nat) (b : Bit) (r : Answer 1)
  | devMode (dev : Device) (idx : Nat) (m : Mode) (r : Answer 1)
  | muxSelect (ch : Channel)
  | muxRead (ch : Channel) (r : Answer 16)
  | adcRead (ch : Nat) (r : Answer 16)
  deriving DecidableEq, Repr

/-- An entry of a sample cache: `EMPTY` or `HELD(v)` (10_state.md R24, R25). -/
inductive CacheEntry (n : Nat) where
  | empty
  | held (v : BitVec n)
  deriving DecidableEq, Repr

/-- The cursor of a sampling pass (R30): `digital i` is `D(i+1)`; `analog i` is `A(i+1)` for i below 16, `A47` and
`A48` for 16 and 17; `finished` is `END`. -/
inductive Cursor where
  | digital (i : Fin 64)
  | analog (i : Fin 18)
  | finished
  deriving DecidableEq, Repr

/-- An event waiting to be published (R30). -/
structure Event where
  key : Key
  value : Value
  deriving DecidableEq, Repr

/-- A sampling pass in progress (R30). -/
structure PassFrame where
  cursor : Cursor
  pending : List Event
  deriving DecidableEq, Repr

/-- Who published (R31): the sampling pass, or a `PUB` command. -/
inductive Origin where
  | pass
  | host
  deriving DecidableEq, Repr

/-- One publish in progress (R31). -/
structure DispFrame where
  key : Key
  value : Value
  snap : List Listener
  pos : Nat
  sent : Bool
  origin : Origin
  deriving DecidableEq, Repr

/-- A frame of `STACK` (R30, R31). -/
inductive Frame where
  | pass (p : PassFrame)
  | disp (d : DispFrame)
  deriving DecidableEq, Repr

/-- An entry of `REGISTRY` (R27). -/
structure SubEntry where
  key : Key
  listener : Listener
  deriving DecidableEq, Repr

/-- Why the model stops with a fault. No condition of the block does (60_exceptions.md R240): each is a next state. -/
inductive Fault where
  /-- Raised by the sequencer, and by `ACK fault`, when the top dispatch frame's `pos` lies past its snapshot, which
  R31 excludes ("pos in 0..len(snap)"); no state that meets the invariant raises it. Safe (assumption log 8). -/
  | brokenFrame
  deriving DecidableEq, Repr

/-- Why the model refuses. -/
inductive Refusal where
  /-- Raised by `exec` for an instruction that has no meaning yet; no arm of `exec` does so now. Safe. -/
  | notModelled (mnemonic : String)
  deriving DecidableEq, Repr

/-- The machine. The first block is the block's own state (10_state.md section 5); the configuration is fixed
(R7, R23); the traces are observations no step reads (R32); the inputs are what R33 calls inputs of a model's step. -/
structure State where
  /-- The parameters of R7; no step changes them (assumption log 3). -/
  cfg : Params
  /-- `DCACHE` (R24): entry i is address i + 1. -/
  dcache : Vector (CacheEntry 1) 64
  /-- `ACACHE` (R25): entry i is the i-th analog address; its sample has `ADC_BITS` bits (assumption log 11). -/
  acache : Vector (CacheEntry 16) 18
  /-- `REGISTRY` (R27), in subscription order. -/
  registry : List SubEntry
  /-- `TICK_PENDING` (R29). -/
  tickPending : Bool
  /-- `STACK` (R30), top first. -/
  stack : List Frame
  /-- `RESP` (R32), oldest first. -/
  resp : List Word
  /-- `DELIV` (R32), oldest first. -/
  deliv : List (BitVec 48)
  /-- `LOG` (R32), oldest first. -/
  log : List (BitVec 64)
  /-- `DEVHIST` (R32), oldest first. -/
  devhist : List DevRecord
  /-- The environment's next moves, oldest first (R33, assumption log 1). -/
  inputs : List Input
  /-- How many moves were taken from `Config.environment` (assumption log 1). -/
  inputCount : Nat
  /-- The devices' next answers, oldest first (R33, assumption log 2). -/
  draws : List Draw
  /-- How many answers were taken from `Config.draw` (assumption log 2). -/
  drawCount : Nat
  deriving DecidableEq, Repr

/-- A block of the given configuration right after reset (10_state.md section 5, 70_reset_and_hazards.md R260), its
traces empty (R32) and its environment unconstrained. -/
def State.resetWith (cfg : Params) : State where
  cfg := cfg
  dcache := Vector.replicate 64 .empty
  acache := Vector.replicate 18 .empty
  registry := []
  tickPending := false
  stack := []
  resp := []
  deliv := []
  log := []
  devhist := []
  inputs := []
  inputCount := 0
  draws := []
  drawCount := 0

/-- The machine right after reset, in this block's configuration. -/
def State.reset : State := State.resetWith Config.params

end Sys2Proof.Machine
end

