-- ==== Sys2Proof/Machine/Flags.lean ====
section
/-! DEFINITION. The block has no status flags (10_state.md R22): the outcome of a command is the status of its
response. Status codes (30_encoding.md R86), the words of the ports (R85, R87, R88), and the conditions with the code
and the record of each (60_exceptions.md R230). -/

namespace Sys2Proof.Machine

/-- Status codes (R86). -/
inductive Status where
  | ok
  | outOfRange
  | alreadySubscribed
  | notSubscribed
  | busFail
  | registryFull
  | depthExceeded
  | illegal
  deriving DecidableEq, Repr

/-- The code of a status (R86). -/
def statusCode : Status → BitVec 4
  | .ok => 0
  | .outOfRange => 1
  | .alreadySubscribed => 2
  | .notSubscribed => 3
  | .busFail => 4
  | .registryFull => 5
  | .depthExceeded => 6
  | .illegal => 7

/-- A response word: status, count, data (R85). -/
def packResponse (st : Status) (count : BitVec 12) (data : Value) : Word :=
  statusCode st ++ count ++ data

/-- A delivery record: listener, kind, 0, addr, value (R87). -/
def packDelivery (l : Listener) (k : Key) (v : Value) : BitVec 48 :=
  l ++ k.kind ++ (0 : BitVec 4) ++ k.addr ++ v

/-- A log record: type, kind, addr, listener, value, count (R88). -/
def packLog (type : BitVec 4) (kind : Kind) (addr : Addr) (l : Listener) (v : Value) (count : BitVec 16) :
    BitVec 64 :=
  type ++ kind ++ addr ++ l ++ v ++ count

/-- The two pin spaces, as log records number them (R88). -/
inductive Space where
  | digital
  | analog
  deriving DecidableEq, Repr

/-- The number of a space in the `kind` field of a record (R88). -/
def spaceCode : Space → Kind
  | .digital => 0
  | .analog => 1

/-- The conditions (R230), each with what it records. `op` is 0 in a `busFail` of the sampling pass. -/
inductive Condition where
  | outOfRange (space : Space) (addr : Addr) (op : Opcode)
  | alreadySubscribed (key : Key) (l : Listener)
  | notSubscribed (key : Key) (l : Listener)
  | busFail (space : Space) (addr : Addr) (op : Opcode)
  | listenerFault (key : Key) (v : Value) (l : Listener) (pos : Nat)
  | registryFull (key : Key) (l : Listener)
  | depthExceeded (key : Key) (v : Value)
  | illegal (w : Word)
  | tickOverrun
  deriving DecidableEq, Repr

/-- The status a condition gives a command's response (R230); `ListenerFault` and `TickOverrun` have none. -/
def conditionStatus : Condition → Option Status
  | .outOfRange _ _ _ => some .outOfRange
  | .alreadySubscribed _ _ => some .alreadySubscribed
  | .notSubscribed _ _ => some .notSubscribed
  | .busFail _ _ _ => some .busFail
  | .listenerFault _ _ _ _ => none
  | .registryFull _ _ => some .registryFull
  | .depthExceeded _ _ => some .depthExceeded
  | .illegal _ => some .illegal
  | .tickOverrun => none

/-- The log record of a condition (R88, R230). -/
def conditionRecord : Condition → BitVec 64
  | .outOfRange sp a op => packLog 0x5 (spaceCode sp) a 0 (op.setWidth 16) 0
  | .alreadySubscribed k l => packLog 0x2 k.kind k.addr l 0 0
  | .notSubscribed k l => packLog 0x3 k.kind k.addr l 0 0
  | .busFail sp a op => packLog 0x4 (spaceCode sp) a 0 (op.setWidth 16) 0
  | .listenerFault k v l pos => packLog 0x1 k.kind k.addr l v (BitVec.ofNat 16 pos)
  | .registryFull k l => packLog 0x6 k.kind k.addr l 0 0
  | .depthExceeded k v => packLog 0x7 k.kind k.addr 0 v 0
  | .illegal w => (0x8 : BitVec 4) ++ (0 : BitVec 28) ++ w
  | .tickOverrun => packLog 0x9 0 0 0 0 0

/-- The `PUBLISH` record (R88, R183). -/
def publishRecord (k : Key) (v : Value) (count : Nat) : BitVec 64 :=
  packLog 0x0 k.kind k.addr 0 v (BitVec.ofNat 16 count)

/-- The `PASS_START` record (R88, R142). -/
def passStartRecord : BitVec 64 := packLog 0xA 0 0 0 0 0

/-- The `PASS_END` record (R88, R152). -/
def passEndRecord : BitVec 64 := packLog 0xB 0 0 0 0 0

end Sys2Proof.Machine
end

