-- ==== Sys2Proof/Machine/Operands.lean ====
section
/-! DEFINITION. Operand forms: the routing of pin addresses onto device ports (20_memory.md R51, R52), the addresses
and the order of a sampling pass (41_sampling.md R143), the draws as the accesses read them (20_memory.md R59, R63),
and the events of a change (R146, R147). -/

namespace Sys2Proof.Machine

/-! ## Routing -/

/-- Where a digital address leads (R51). -/
inductive DRoute where
  | dev (d : Device) (idx : Nat)
  | reserved
  | outOfRange
  deriving DecidableEq, Repr

/-- Where an analog address leads (R52). -/
inductive ARoute where
  | mux (ch : Channel)
  | adc (ch : Nat)
  | outOfRange
  deriving DecidableEq, Repr

/-- `routeD` (R51), the local bank's index being the address itself. -/
def routeD (a : Addr) : DRoute :=
  let n := a.toNat
  if 1 ≤ n ∧ n ≤ 16 then .dev .expA (n - 1)
  else if 17 ≤ n ∧ n ≤ 32 then .dev .expB (n - 17)
  else if 33 ≤ n ∧ n ≤ 46 then .dev .localBank n
  else if n = 47 ∨ n = 48 then .reserved
  else if 49 ≤ n ∧ n ≤ 64 then .dev .expC (n - 49)
  else .outOfRange

/-- `routeA` (R52). -/
def routeA (a : Addr) : ARoute :=
  let n := a.toNat
  if 1 ≤ n ∧ n ≤ 16 then .mux (BitVec.ofNat 4 (n - 1))
  else if n = 47 then .adc 1
  else if n = 48 then .adc 2
  else .outOfRange

/-! ## The sampling pass's addresses (R143) -/

/-- The digital address of index i: 1..64. -/
def digitalAddr (i : Fin 64) : Addr := BitVec.ofNat 8 (i.val + 1)

/-- The analog address of index i: 1..16, then 47 and 48. -/
def analogAddr (i : Fin 18) : Addr :=
  BitVec.ofNat 8 (if i.val < 16 then i.val + 1 else i.val + 31)

/-- `next` of R143; `END` has no next address and stays. -/
def nextCursor : Cursor → Cursor
  | .digital i => if h : i.val + 1 < 64 then .digital ⟨i.val + 1, h⟩ else .analog 0
  | .analog i => if h : i.val + 1 < 18 then .analog ⟨i.val + 1, h⟩ else .finished
  | .finished => .finished

/-! ## Draws as accesses read them (R59, R63; assumption log 2) -/

/-- The answer to a `DevRead`: `OK(b)`, b the low bit, or `FAIL`. -/
def levelOf (d : Draw) : Answer 1 :=
  if d.ok then .ok (d.value.setWidth 1) else .fail

/-- The answer to a `MuxRead` or `AdcRead`: `OK(v)`, v the low `ADC_BITS` bits, or `FAIL`. -/
def sampleOf (cfg : Params) (d : Draw) : Answer 16 :=
  if d.ok then .ok (BitVec.ofNat 16 (d.value.toNat % 2 ^ cfg.adcBits)) else .fail

/-- The answer to a `DevWrite` or `DevMode`: `OK(0)` or `FAIL`. -/
def doneOf (d : Draw) : Answer 1 :=
  if d.ok then .ok 0 else .fail

/-! ## Events of a change -/

/-- `edgeKind` (R146): kind 0 is `DigitalRising`, kind 1 `DigitalFalling`. -/
def edgeKind (cfg : Params) (b : Bit) : Kind :=
  if b = cfg.risingLevel then 0 else 1

/-- `digitalEvents` (R147): the edge event, then `DigitalChange` (kind 2), both carrying the new level. -/
def digitalEvents (cfg : Params) (a : Addr) (b : Bit) : List Event :=
  [⟨⟨edgeKind cfg b, a⟩, b.setWidth 16⟩, ⟨⟨2, a⟩, b.setWidth 16⟩]

/-- The one event of an analog change: `AnalogChange` (kind 3), carrying the new sample (R148). -/
def analogEvents (a : Addr) (v : Value) : List Event :=
  [⟨⟨3, a⟩, v⟩]

end Sys2Proof.Machine
end

