-- ==== Sys2Proof/Machine/Ops.lean ====
section
/-! DEFINITION. The named operations over the state: the updates of single fields, the output primitives
(00_scope.md R11), the device primitives (R10, 20_memory.md R54 to R60), raising a condition (60_exceptions.md R240),
the snapshot and the publish primitive (42_event_bus.md R183), the tick (41_sampling.md R141) and reset
(70_reset_and_hazards.md R260). -/

namespace Sys2Proof.Machine

/-! ## Updates of one field -/

/-- `DCACHE[i] <- e` (10_state.md R24). -/
def setDcache (i : Fin 64) (e : CacheEntry 1) (s : State) : State :=
  { s with dcache := s.dcache.set i.val e i.isLt }

/-- `ACACHE[i] <- e` (10_state.md R25). -/
def setAcache (i : Fin 18) (e : CacheEntry 16) (s : State) : State :=
  { s with acache := s.acache.set i.val e i.isLt }

/-- `REGISTRY <- r` (10_state.md R27). -/
def setRegistry (r : List SubEntry) (s : State) : State := { s with registry := r }

/-- `TICK_PENDING <- b` (10_state.md R29). -/
def setTickPending (b : Bool) (s : State) : State := { s with tickPending := b }

/-- `STACK <- st` (10_state.md R30). -/
def setStack (st : List Frame) (s : State) : State := { s with stack := st }

/-- Append a word to `RESP` (10_state.md R32). -/
def emitResp (w : Word) (s : State) : State := { s with resp := s.resp ++ [w] }

/-- Append a record to `DELIV` (R32). -/
def emitDeliv (r : BitVec 48) (s : State) : State := { s with deliv := s.deliv ++ [r] }

/-- Append a record to `LOG` (R32). -/
def emitLog (r : BitVec 64) (s : State) : State := { s with log := s.log ++ [r] }

/-- Append records to `DEVHIST` (R32). -/
def emitDev (rs : List DevRecord) (s : State) : State := { s with devhist := s.devhist ++ rs }

/-! ## Inputs of the step (R33) -/

/-- The device answer the next access gets (assumption log 2). -/
def nextDraw (s : State) : Draw :=
  match s.draws with
  | d :: _ => d
  | [] => Config.draw s.drawCount

/-- That answer is used up: no later access sees it (20_memory.md R59). -/
def dropDraw (s : State) : State :=
  { s with draws := s.draws.tail, drawCount := if s.draws.isEmpty then s.drawCount + 1 else s.drawCount }

/-- The environment's next move (assumption log 1). -/
def nextInput (s : State) : Input :=
  match s.inputs with
  | i :: _ => i
  | [] => Config.environment s.inputCount

/-- That move is taken. -/
def dropInput (s : State) : State :=
  { s with
    inputs := s.inputs.tail
    inputCount := if s.inputs.isEmpty then s.inputCount + 1 else s.inputCount }

/-- That move, a word the block cannot take yet, stays offered (10_state.md R35, assumption log 7). -/
def holdInput (s : State) : State :=
  { s with
    inputs := if s.inputs.isEmpty then [nextInput s] else s.inputs
    inputCount := if s.inputs.isEmpty then s.inputCount + 1 else s.inputCount }

/-! ## Output primitives (00_scope.md R11) -/

/-- `Respond(status, count, data)`. -/
def respond (st : Status) (count : BitVec 12) (data : Value) (s : State) : State :=
  emitResp (packResponse st count data) s

/-- `raise <Condition>`: append the condition's log record, and in a command respond with its status and data 0
(R11). The one operation through which every condition is reported; it changes no state of the block (60_exceptions.md
R240). -/
def raise (inCommand : Bool) (c : Condition) (s : State) : State :=
  match inCommand, conditionStatus c with
  | true, some st => respond st 0 0 (emitLog (conditionRecord c) s)
  | _, _ => emitLog (conditionRecord c) s

/-! ## Device primitives (00_scope.md R10, 20_memory.md R54 to R60) -/

/-- The state after `DevRead(dev, idx)`; its answer is `levelOf (nextDraw s)`. -/
def devRead (d : Device) (idx : Nat) (s : State) : State :=
  emitDev [.devRead d idx (levelOf (nextDraw s))] (dropDraw s)

/-- The state after `DevWrite(dev, idx, b)`; its answer is `doneOf (nextDraw s)`. -/
def devWrite (d : Device) (idx : Nat) (b : Bit) (s : State) : State :=
  emitDev [.devWrite d idx b (doneOf (nextDraw s))] (dropDraw s)

/-- The state after `DevMode(dev, idx, m)`; its answer is `doneOf (nextDraw s)`. -/
def devMode (d : Device) (idx : Nat) (m : Mode) (s : State) : State :=
  emitDev [.devMode d idx m (doneOf (nextDraw s))] (dropDraw s)

/-- The answer of `MuxRead(ch)` (R56): a channel at or above `MUX_CHANNELS` reads 0 without an access. -/
def muxAnswer (ch : Channel) (s : State) : Answer 16 :=
  if s.cfg.muxChannels ≤ ch.toNat then .ok 0 else sampleOf s.cfg (nextDraw s)

/-- The state after `MuxRead(ch)` (R56). -/
def muxRead (ch : Channel) (s : State) : State :=
  if s.cfg.muxChannels ≤ ch.toNat then s
  else emitDev [.muxSelect ch, .muxRead ch (sampleOf s.cfg (nextDraw s))] (dropDraw s)

/-- The state after `AdcRead(ch)` (R58); its answer is `sampleOf s.cfg (nextDraw s)`. -/
def adcRead (ch : Nat) (s : State) : State :=
  emitDev [.adcRead ch (sampleOf s.cfg (nextDraw s))] (dropDraw s)

/-! ## The event bus -/

/-- `snapshot(key)` (10_state.md R28): the listeners of the key, in registry order. -/
def snapshot (key : Key) (s : State) : List Listener :=
  (s.registry.filter (fun e => e.key == key)).map SubEntry.listener

/-- `Publish(key, v, origin)` (42_event_bus.md R183): log the publish and push its dispatch frame. -/
def publish (key : Key) (v : Value) (origin : Origin) (s : State) : State :=
  setStack (.disp ⟨key, v, snapshot key s, 0, false, origin⟩ :: s.stack)
    (emitLog (publishRecord key v (snapshot key s).length) s)

/-- The block takes a word (10_state.md R35): it is idle, or its top frame awaits an ACK. -/
def accepting (s : State) : Bool :=
  match s.stack with
  | [] => true
  | .disp d :: _ => d.sent
  | .pass _ :: _ => false

/-! ## The tick and reset -/

/-- A tick, from the input or a `TICK` command (R140, R141): it merges with one still pending, which is logged. -/
def tickIn (s : State) : State :=
  setTickPending true (if s.tickPending then raise false .tickOverrun s else s)

/-- Reset (R260), in any state: it empties the block's state and emits nothing; the traces stay as they are (R32),
and neither the devices nor the rest of the environment notice it (assumption log 18). -/
def resetBlock (s : State) : State :=
  { s with
    dcache := Vector.replicate 64 .empty
    acache := Vector.replicate 18 .empty
    registry := []
    tickPending := false
    stack := [] }

end Sys2Proof.Machine
end

