-- ==== Sys2Proof/Machine/DirectIo.lean ====
section
/-! DEFINITION. The direct I/O commands (40_direct_io.md R110 to R115). -/

namespace Sys2Proof.Machine

/-- `DREAD a` (R111). -/
def execDread (a : Addr) (s : State) : Host.Outcome State Fault Refusal :=
  .next (match routeD a with
    | .outOfRange => raise true (.outOfRange .digital a 0x4) s
    | .reserved => respond .ok 0 0 s
    | .dev d idx =>
      match levelOf (nextDraw s) with
      | .ok b => respond .ok 0 (b.setWidth 16) (devRead d idx s)
      | .fail => raise true (.busFail .digital a 0x4) (devRead d idx s))

/-- `DWRITE a, b` (R112). -/
def execDwrite (a : Addr) (b : Bit) (s : State) : Host.Outcome State Fault Refusal :=
  .next (match routeD a with
    | .outOfRange => raise true (.outOfRange .digital a 0x5) s
    | .reserved => respond .ok 0 0 s
    | .dev d idx =>
      match doneOf (nextDraw s) with
      | .ok _ => respond .ok 0 0 (devWrite d idx b s)
      | .fail => raise true (.busFail .digital a 0x5) (devWrite d idx b s))

/-- The end of an `AREAD` whose access answered r (R113). -/
def areadAnswer (a : Addr) (r : Answer 16) (s : State) : State :=
  match r with
  | .ok v => respond .ok 0 v s
  | .fail => raise true (.busFail .analog a 0x6) s

/-- `AREAD a` (R113). -/
def execAread (a : Addr) (s : State) : Host.Outcome State Fault Refusal :=
  .next (match routeA a with
    | .outOfRange => raise true (.outOfRange .analog a 0x6) s
    | .mux ch => areadAnswer a (muxAnswer ch s) (muxRead ch s)
    | .adc c => areadAnswer a (sampleOf s.cfg (nextDraw s)) (adcRead c s))

/-- `SETMODE a, m` (R114). -/
def execSetmode (a : Addr) (m : Mode) (s : State) : Host.Outcome State Fault Refusal :=
  .next (match routeD a with
    | .outOfRange => raise true (.outOfRange .digital a 0x7) s
    | .reserved => respond .ok 0 0 s
    | .dev d idx =>
      match doneOf (nextDraw s) with
      | .ok _ => respond .ok 0 0 (devMode d idx m s)
      | .fail => raise true (.busFail .digital a 0x7) (devMode d idx m s))

end Sys2Proof.Machine
end

