-- ==== Sys2Proof/Machine/EventBus.lean ====
section
/-! DEFINITION. The event bus (42_event_bus.md): `SUB`, `UNSUB`, `PUB`, `ACK`, and the sequencer's steps on a dispatch
frame. `rest` is what lies below the top frame of `STACK`. -/

namespace Sys2Proof.Machine

/-- `SUB key, l` (R180); the duplicate test comes before the capacity test (60_exceptions.md R241). -/
def execSub (k : Key) (l : Listener) (s : State) : Host.Outcome State Fault Refusal :=
  .next (
    if (⟨k, l⟩ : SubEntry) ∈ s.registry then raise true (.alreadySubscribed k l) s
    else if s.registry.length = s.cfg.subCapacity then raise true (.registryFull k l) s
    else respond .ok 0 0 (setRegistry (s.registry ++ [⟨k, l⟩]) s))

/-- `UNSUB key, l` (R181): exactly that entry goes, the others keep their order. -/
def execUnsub (k : Key) (l : Listener) (s : State) : Host.Outcome State Fault Refusal :=
  .next (
    if (⟨k, l⟩ : SubEntry) ∈ s.registry then respond .ok 0 0 (setRegistry (s.registry.erase ⟨k, l⟩) s)
    else raise true (.notSubscribed k l) s)

/-- `PUB key, v` (R182); its response comes when its dispatch completes (R186). -/
def execPub (k : Key) (v : Value) (s : State) : Host.Outcome State Fault Refusal :=
  .next (
    if s.stack.length = s.cfg.maxDepth then raise true (.depthExceeded k v) s
    else publish k v .host s)

/-- `ACK f` (R185): with a delivery awaited, log the fault if there is one and go to the next listener, with no
response; otherwise `Illegal`, the offending word being the command's own. -/
def execAck (f : Bit) (s : State) : Host.Outcome State Fault Refusal :=
  match s.stack with
  | .disp d :: rest =>
    if d.sent then
      if f = 1 then
        match d.snap[d.pos]? with
        | some l =>
          .next (setStack (.disp { d with pos := d.pos + 1, sent := false } :: rest)
            (raise true (.listenerFault d.key d.value l d.pos) s))
        | none => .fault .brokenFrame
      else .next (setStack (.disp { d with pos := d.pos + 1, sent := false } :: rest) s)
    else .next (raise true (.illegal (encode (.ack f))) s)
  | _ => .next (raise true (.illegal (encode (.ack f))) s)

/-- Deliver step (R184) to listener l. -/
def deliver (d : DispFrame) (l : Listener) (rest : List Frame) (s : State) : State :=
  setStack (.disp { d with sent := true } :: rest) (emitDeliv (packDelivery l d.key d.value) s)

/-- Dispatch complete (R186): a `PUB` gets its response, with the number of listeners of its snapshot. -/
def complete (d : DispFrame) (rest : List Frame) (s : State) : State :=
  match d.origin with
  | .host => respond .ok (BitVec.ofNat 12 d.snap.length) 0 (setStack rest s)
  | .pass => setStack rest s

/-- The one sequencer step enabled on a dispatch frame (R153). While an ACK is awaited there is none and the block
waits (70_reset_and_hazards.md R268, assumption log 6); a `pos` past the snapshot is no state of R31 (assumption
log 8). -/
def dispStep (d : DispFrame) (rest : List Frame) (s : State) : Host.Outcome State Fault Refusal :=
  if d.sent then .next s
  else
    match d.snap[d.pos]? with
    | some l => .next (deliver d l rest s)
    | none => if d.pos = d.snap.length then .next (complete d rest s) else .fault .brokenFrame

end Sys2Proof.Machine
end

