-- ==== Sys2Proof/Machine/Sampling.lean ====
section
/-! DEFINITION. The sampling pass (41_sampling.md): the `TICK` command, and the sequencer's steps on a pass frame.
`rest` is what lies below the top frame of `STACK`. -/

namespace Sys2Proof.Machine

/-- `TICK` from the HOST (R140). -/
def execTick (s : State) : Host.Outcome State Fault Refusal :=
  .next (respond .ok 0 0 (tickIn s))

/-- Pass start (R142). -/
def passStart (s : State) : State :=
  emitLog passStartRecord (setStack [.pass ⟨.digital 0, []⟩] (setTickPending false s))

/-- What a digital sample step does with its answer (R144, R145): a failure and a level already held leave the
entry; the first good sample seeds it; a change writes it and queues its two events. -/
def digitalSampled (i : Fin 64) (rest : List Frame) (r : Answer 1) (s : State) : State :=
  let next := nextCursor (.digital i)
  match r with
  | .fail => setStack (.pass ⟨next, []⟩ :: rest) (raise false (.busFail .digital (digitalAddr i) 0) s)
  | .ok b =>
    match s.dcache[i] with
    | .empty => setStack (.pass ⟨next, []⟩ :: rest) (setDcache i (.held b) s)
    | .held c =>
      if c = b then setStack (.pass ⟨next, []⟩ :: rest) s
      else setStack (.pass ⟨next, digitalEvents s.cfg (digitalAddr i) b⟩ :: rest) (setDcache i (.held b) s)

/-- Digital sample step (R144). The reserved addresses read 0 with no access; an unrouted one is never sampled
(60_exceptions.md R231) and would read the same (assumption log 12). -/
def sampleDigital (i : Fin 64) (rest : List Frame) (s : State) : State :=
  match routeD (digitalAddr i) with
  | .dev d idx => digitalSampled i rest (levelOf (nextDraw s)) (devRead d idx s)
  | .reserved => digitalSampled i rest (.ok 0) s
  | .outOfRange => digitalSampled i rest (.ok 0) s

/-- What an analog sample step does with its answer (R148, R149). -/
def analogSampled (i : Fin 18) (rest : List Frame) (r : Answer 16) (s : State) : State :=
  let next := nextCursor (.analog i)
  match r with
  | .fail => setStack (.pass ⟨next, []⟩ :: rest) (raise false (.busFail .analog (analogAddr i) 0) s)
  | .ok v =>
    match s.acache[i] with
    | .empty => setStack (.pass ⟨next, []⟩ :: rest) (setAcache i (.held v) s)
    | .held u =>
      if u = v then setStack (.pass ⟨next, []⟩ :: rest) s
      else setStack (.pass ⟨next, analogEvents (analogAddr i) v⟩ :: rest) (setAcache i (.held v) s)

/-- Analog sample step (R148); an unrouted address is never sampled (assumption log 12). -/
def sampleAnalog (i : Fin 18) (rest : List Frame) (s : State) : State :=
  match routeA (analogAddr i) with
  | .mux ch => analogSampled i rest (muxAnswer ch s) (muxRead ch s)
  | .adc c => analogSampled i rest (sampleOf s.cfg (nextDraw s)) (adcRead c s)
  | .outOfRange => analogSampled i rest (.ok 0) s

/-- Pass publish step (R150). -/
def passPublish (c : Cursor) (e : Event) (more : List Event) (rest : List Frame) (s : State) : State :=
  publish e.key e.value .pass (setStack (.pass ⟨c, more⟩ :: rest) s)

/-- Pass end (R152). -/
def passEnd (rest : List Frame) (s : State) : State :=
  emitLog passEndRecord (setStack rest s)

/-- The one sequencer step enabled on a pass frame (R153). -/
def passStep (p : PassFrame) (rest : List Frame) (s : State) : State :=
  match p.pending with
  | e :: more => passPublish p.cursor e more rest s
  | [] =>
    match p.cursor with
    | .digital i => sampleDigital i rest s
    | .analog i => sampleAnalog i rest s
    | .finished => passEnd rest s

end Sys2Proof.Machine
end

