-- ==== Sys2Proof/Machine/Dispatch.lean ====
section
/-! DEFINITION. One arm per command. -/

namespace Sys2Proof.Machine

def exec (i : Instr) (s : State) : Host.Outcome State Fault Refusal :=
  match i with
  | .tick => Sys2Proof.Machine.execTick s
  | .sub k l => Sys2Proof.Machine.execSub k l s
  | .unsub k l => Sys2Proof.Machine.execUnsub k l s
  | .pub k v => Sys2Proof.Machine.execPub k v s
  | .dread a => Sys2Proof.Machine.execDread a s
  | .dwrite a b => Sys2Proof.Machine.execDwrite a b s
  | .aread a => Sys2Proof.Machine.execAread a s
  | .setmode a m => Sys2Proof.Machine.execSetmode a m s
  | .ack f => Sys2Proof.Machine.execAck f s

end Sys2Proof.Machine
end

