-- ==== Sys2Proof/Machine/Sequencer.lean ====
section
/-! DEFINITION. The agents' moves (00_scope.md R6): the sequencer's step (41_sampling.md R153), a word on the command
port (10_state.md R35, 30_encoding.md R90), and which agent moves (60_exceptions.md R243). -/

namespace Sys2Proof.Machine

/-- A SEQ step: the one that is enabled (R153), or none, and then nothing changes (60_exceptions.md R251, assumption
log 6). -/
def seqStep (s : State) : Host.Outcome State Fault Refusal :=
  match s.stack with
  | [] => if s.tickPending then .next (passStart s) else .next s
  | .pass p :: rest => .next (passStep p rest s)
  | .disp d :: rest => dispStep d rest s

/-- The block takes a word from the command port: a command is executed, an illegal word is not and raises `Illegal`
(60_exceptions.md R238). -/
def takeWord (w : Word) (s : State) : Host.Outcome State Fault Refusal :=
  match decode w with
  | .ok i => exec i s
  | .error _ => .next (raise true (.illegal w) s)

/-- One step of the model is one move of one agent (R6). A word offered while the block is not accepting waits, and
the sequencer steps (R35, assumption log 7). -/
def moveStep (s : State) : Host.Outcome State Fault Refusal :=
  match nextInput s with
  | .seq => seqStep (dropInput s)
  | .tick => .next (tickIn (dropInput s))
  | .reset => .next (resetBlock (dropInput s))
  | .host w => if accepting s then takeWord w (dropInput s) else seqStep (holdInput s)

/-- The state with a word as the HOST's very next move, and the block accepting it: one that is in the middle of a
pass or a dispatch step is made idle first (assumption log 9). -/
def offerWord (w : Word) (s : State) : State :=
  { s with
    inputs := .host w :: s.inputs
    stack := if accepting s then s.stack else [] }

end Sys2Proof.Machine
end

