-- ==== Sys2Proof/Machine/Step.lean ====
section
/-! DEFINITION. The step of the machine, and placing a command word where it runs next. -/

namespace Sys2Proof.Machine

/-- One step (00_scope.md R6). -/
def step (s : State) : Host.Outcome State Fault Refusal :=
  moveStep s

/-- The state whose next step takes the word of `nbits` low bits of w (assumption log 9). -/
def State.withFetchWord (s : State) (nbits w : Nat) : State :=
  offerWord (tableWord nbits w) s

end Sys2Proof.Machine
end

