-- ==== Sys2Proof/Safety.lean ====
section
/-! DEFINITION. What a legal state is (10_state.md R24 to R31, R34), which sequencer step each rule enables
(41_sampling.md R153), and the views of a state that claims compare. -/

namespace Sys2Proof.Machine

/-! ## Legal frames and the invariant -/

/-- Digital addresses the pass reads from a device: 1..46 and 49..64 (20_memory.md R51). -/
def sampledPin (a : Addr) : Bool :=
  (decide (1 ≤ a.toNat) && decide (a.toNat ≤ 46)) || (decide (49 ≤ a.toNat) && decide (a.toNat ≤ 64))

/-- Analog addresses: 1..16, 47, 48 (00_scope.md R7). -/
def analogPin (a : Addr) : Bool :=
  (decide (1 ≤ a.toNat) && decide (a.toNat ≤ 16)) || decide (a.toNat = 47) || decide (a.toNat = 48)

/-- What the pass may publish (30_encoding.md R83, 41_sampling.md R146 to R151): under kinds 0..2 a level of a sampled
pin, the edge kind naming that level; under kind 3 a sample of `ADC_BITS` bits of an analog address. -/
def passEventLegal (cfg : Params) (k : Key) (v : Value) : Bool :=
  if k.kind = 3 then analogPin k.addr && decide (v.toNat < 2 ^ cfg.adcBits)
  else
    sampledPin k.addr && decide (v.toNat ≤ 1) &&
      (decide (k.kind = 2) || decide (k.kind = edgeKind cfg (v.setWidth 1)))

/-- A dispatch frame of R31: `pos` within the snapshot, and on one of its listeners while `sent`; the snapshot of a
legal registry (R27, R28); what the pass published is an event of the pass. -/
def dispLegal (cfg : Params) (d : DispFrame) : Bool :=
  decide (d.pos ≤ d.snap.length) && (!d.sent || decide (d.pos < d.snap.length)) &&
    decide d.snap.Nodup && decide (d.snap.length ≤ cfg.subCapacity) &&
    (decide (d.origin = .host) || passEventLegal cfg d.key d.value)

/-- What may lie directly below a dispatch frame (R34.3): a pass frame below one of the pass; below one of a `PUB`
nothing, or a dispatch frame that awaits its ACK. -/
def belowLegal (d : DispFrame) : List Frame → Bool
  | [] => decide (d.origin = .host)
  | .pass _ :: _ => decide (d.origin = .pass)
  | .disp e :: _ => decide (d.origin = .host) && e.sent

/-- The shape of `STACK` (R30, R34): a pass frame only at the bottom, at most two events pending. -/
def stackLegal (cfg : Params) : List Frame → Bool
  | [] => true
  | .pass p :: rest =>
    rest.isEmpty && decide (p.pending.length ≤ 2) && p.pending.all (fun e => passEventLegal cfg e.key e.value)
  | .disp d :: rest => dispLegal cfg d && belowLegal d rest && stackLegal cfg rest

/-- A held sample has at most `ADC_BITS` bits (R25). -/
def sampleFits (cfg : Params) : CacheEntry 16 → Bool
  | .empty => true
  | .held v => decide (v.toNat < 2 ^ cfg.adcBits)

/-- The invariant of the block (10_state.md R25, R27, R30, R31, R34; 41_sampling.md R151). -/
structure BlockInv (s : State) : Prop where
  /-- No pair twice (R27). -/
  registryNodup : s.registry.Nodup
  /-- At most `SUB_CAPACITY` entries (R27). -/
  registryCap : s.registry.length ≤ s.cfg.subCapacity
  /-- At most `MAX_DEPTH` frames (R30). -/
  depth : s.stack.length ≤ s.cfg.maxDepth
  /-- The frames are legal (R34). -/
  frames : stackLegal s.cfg s.stack = true
  /-- Samples have `ADC_BITS` bits (R25). -/
  samples : ∀ i : Fin 18, sampleFits s.cfg s.acache[i] = true
  /-- The reserved digital addresses 47 and 48 hold nothing but 0 (R151). -/
  reserved47 : s.dcache[46] ≠ .held 1
  reserved48 : s.dcache[47] ≠ .held 1

/-! ## The sequencer's steps, each enabled as its own rule says -/

/-- The steps of SEQ (41_sampling.md R153). -/
inductive SeqKind where
  | passStart
  | sampleDigital
  | sampleAnalog
  | passPublish
  | passEnd
  | deliver
  | complete
  deriving DecidableEq, Repr

/-- The enabling condition of each step: R142, R144, R148, R150, R152, R184, R186. -/
def seqEnabled (k : SeqKind) (s : State) : Bool :=
  match k with
  | .passStart => s.stack.isEmpty && s.tickPending
  | .sampleDigital =>
    match s.stack with
    | .pass ⟨.digital _, []⟩ :: _ => true
    | _ => false
  | .sampleAnalog =>
    match s.stack with
    | .pass ⟨.analog _, []⟩ :: _ => true
    | _ => false
  | .passPublish =>
    match s.stack with
    | .pass ⟨_, _ :: _⟩ :: _ => true
    | _ => false
  | .passEnd =>
    match s.stack with
    | .pass ⟨.finished, []⟩ :: _ => true
    | _ => false
  | .deliver =>
    match s.stack with
    | .disp d :: _ => !d.sent && decide (d.pos < d.snap.length)
    | _ => false
  | .complete =>
    match s.stack with
    | .disp d :: _ => !d.sent && decide (d.pos = d.snap.length)
    | _ => false

/-- The state each step leads to where it is enabled: the pseudocode of R142, R144, R148, R150, R152, R184, R186. A
step that is not enabled leads nowhere, and its entry here is the state itself. -/
def seqEffect (k : SeqKind) (s : State) : State :=
  match k, s.stack with
  | .passStart, [] => passStart s
  | .sampleDigital, .pass ⟨.digital i, []⟩ :: rest => sampleDigital i rest s
  | .sampleAnalog, .pass ⟨.analog i, []⟩ :: rest => sampleAnalog i rest s
  | .passPublish, .pass ⟨c, e :: more⟩ :: rest => passPublish c e more rest s
  | .passEnd, .pass ⟨.finished, []⟩ :: rest => passEnd rest s
  | .deliver, .disp d :: rest =>
    match d.snap[d.pos]? with
    | some l => deliver d l rest s
    | none => s
  | .complete, .disp d :: rest => complete d rest s
  | _, _ => s

/-! ## Several moves -/

/-- `n` steps, one after the other, stopping at the first that gives no next state. -/
def steps : Nat → State → Host.Outcome State Fault Refusal
  | 0, s => .next s
  | n + 1, s =>
    match step s with
    | .next t => steps n t
    | .fault r => .fault r
    | .refused r => .refused r

/-! ## Views of a state -/

/-- The state with its output traces emptied. -/
def withoutTraces (s : State) : State := { s with resp := [], deliv := [], log := [], devhist := [] }

/-- The state t with the traces of s put before its own. -/
def afterTracesOf (s t : State) : State :=
  { t with
    resp := s.resp ++ t.resp
    deliv := s.deliv ++ t.deliv
    log := s.log ++ t.log
    devhist := s.devhist ++ t.devhist }

/-- The state with other caches. -/
def withCaches (d : Vector (CacheEntry 1) 64) (a : Vector (CacheEntry 16) 18) (s : State) : State :=
  { s with dcache := d, acache := a }

/-- What an access asks for, without its answer. -/
inductive Target where
  | readPin (dev : Device) (idx : Nat)
  | writePin (dev : Device) (idx : Nat) (b : Bit)
  | setMode (dev : Device) (idx : Nat) (m : Mode)
  | select (ch : Channel)
  | readMux (ch : Channel)
  | readAdc (ch : Nat)
  deriving DecidableEq, Repr

/-- The target of a record of `DEVHIST`. -/
def targetOf : DevRecord → Target
  | .devRead d i _ => .readPin d i
  | .devWrite d i b _ => .writePin d i b
  | .devMode d i m _ => .setMode d i m
  | .muxSelect ch => .select ch
  | .muxRead ch _ => .readMux ch
  | .adcRead ch _ => .readAdc ch

/-- The accesses of one pass, in order (95_test_vectors.md V36): the expanders A and B, the local bank, expander C,
the multiplexer's channels below `MUX_CHANNELS`, the two ADC channels. -/
def passTargets (cfg : Params) : List Target :=
  (List.range 16).map (Target.readPin .expA) ++ (List.range 16).map (Target.readPin .expB) ++
    (List.range' 33 14).map (Target.readPin .localBank) ++ (List.range 16).map (Target.readPin .expC) ++
    ((List.range cfg.muxChannels).map
      (fun c => [Target.select (BitVec.ofNat 4 c), Target.readMux (BitVec.ofNat 4 c)])).flatten ++
    [.readAdc 1, .readAdc 2]

/-- The fault records of a dispatch whose listeners return the fault bits fs, the first at index pos (R185, R188). -/
def faultRecords (k : Key) (v : Value) : Nat → List (Listener × Bit) → List (BitVec 64)
  | _, [] => []
  | pos, (l, f) :: more =>
    (if f = 1 then [packLog 0x1 k.kind k.addr l v (BitVec.ofNat 16 pos)] else []) ++
      faultRecords k v (pos + 1) more

/-- The moves that deliver to each listener and take its ACK, with fault bits fs. -/
def ackMoves (fs : List Bit) : List Input :=
  (fs.map (fun f => [Input.seq, Input.host (encode (.ack f))])).flatten

end Sys2Proof.Machine
end

