-- ==== Sys2Proof/Certificates/Slice0/Obligations.lean ====
section
/-! DEFINITION. The statements for the provers. Each docstring names the rules it comes from. How a statement says
which agent steps next and what a device answers: `inputs` begins with the agent's move (00_scope.md R6, 60_exceptions.md
R243), and `nextDraw` is the answer of the next access (20_memory.md R59). R33 calls both inputs of a model's step; that
the state carries them is the model's way of holding them (assumption log 1 and 2), and every statement ranges over
all of them. -/

open Sys2Proof Sys2Proof.Machine

/-! ## Encoding -/

/-- R82, R90: the word of every command decodes to that command, every operand at every value of its field. -/
def Obligations.DecodeOfEncode : Prop :=
  ∀ i : Instr, decode (encode i) = .ok i

/-- R82, R89: a word that decodes to a command is that command's word, so no reserved field of it is set. -/
def Obligations.EncodeOfDecode : Prop :=
  ∀ (w : Word) (i : Instr), decode w = .ok i → encode i = w

/-- R90, with the fields written as numbers: op is w / 2^28, kind the next four bits, addr the next eight, opd the low
sixteen. -/
def Obligations.DecodeIsTheTable : Prop :=
  ∀ w : Word,
    let op := w.toNat / 2 ^ 28
    let kind : Kind := BitVec.ofNat 4 (w.toNat / 2 ^ 24)
    let addr : Addr := BitVec.ofNat 8 (w.toNat / 2 ^ 16)
    let opd := w.toNat % 2 ^ 16
    let bare := w.toNat / 2 ^ 24 % 16 = 0
    (op = 0 → if w = 0 then decode w = .ok .tick else ∃ c, decode w = .error c) ∧
    (op = 1 → decode w = .ok (.sub ⟨kind, addr⟩ (BitVec.ofNat 16 opd))) ∧
    (op = 2 → decode w = .ok (.unsub ⟨kind, addr⟩ (BitVec.ofNat 16 opd))) ∧
    (op = 3 → decode w = .ok (.pub ⟨kind, addr⟩ (BitVec.ofNat 16 opd))) ∧
    (op = 4 → if bare ∧ opd = 0 then decode w = .ok (.dread addr) else ∃ c, decode w = .error c) ∧
    (op = 5 →
      if bare ∧ opd < 2 then decode w = .ok (.dwrite addr (BitVec.ofNat 1 opd)) else ∃ c, decode w = .error c) ∧
    (op = 6 → if bare ∧ opd = 0 then decode w = .ok (.aread addr) else ∃ c, decode w = .error c) ∧
    (op = 7 →
      if bare ∧ opd < 256 then decode w = .ok (.setmode addr (BitVec.ofNat 8 opd)) else ∃ c, decode w = .error c) ∧
    (op = 8 →
      if bare ∧ addr = 0 ∧ opd < 2 then decode w = .ok (.ack (BitVec.ofNat 1 opd)) else ∃ c, decode w = .error c) ∧
    (9 ≤ op → ∃ c, decode w = .error c)

/-- Words of 95_test_vectors.md V1 to V16 and of the rules' examples, one or more of each command. -/
def Obligations.WrittenWordsDecode : Prop :=
  decode 0x00000000 = .ok .tick ∧
  decode 0x11280001 = .ok (.sub ⟨1, 40⟩ 1) ∧
  decode 0x1FFFFFFF = .ok (.sub ⟨15, 255⟩ 65535) ∧
  decode 0x21280001 = .ok (.unsub ⟨1, 40⟩ 1) ∧
  decode 0x34070005 = .ok (.pub ⟨4, 7⟩ 5) ∧
  decode 0x40630000 = .ok (.dread 99) ∧
  decode 0x50110001 = .ok (.dwrite 17 1) ∧
  decode 0x60410000 = .ok (.aread 65) ∧
  decode 0x703100FF = .ok (.setmode 49 255) ∧
  decode 0x80000001 = .ok (.ack 1) ∧
  decode 0x00000001 = .error .reservedField ∧
  decode 0x90000000 = .error .reservedOpcode ∧
  decode 0x80010000 = .error .reservedField

/-- 20_memory.md R61: the bytes of a command or response word (R80, R85), of a delivery record (R87) and of a log
record (R88), least significant first; R62: fewer bytes are a partial transfer and deliver nothing, no command among
it. That a receiver takes four, six or eight bytes by the word's width, with nothing between words, and leaves the
bytes after them is the model's reading (assumption log 17, DEDUCED). -/
def Obligations.BytesCarryWholeWords : Prop :=
  (∀ w : Word, (bytesOfWord w).map BitVec.toNat =
    [w.toNat % 2 ^ 8, w.toNat / 2 ^ 8 % 2 ^ 8, w.toNat / 2 ^ 16 % 2 ^ 8, w.toNat / 2 ^ 24]) ∧
  (∀ r : BitVec 48, (bytesOfDelivery r).map BitVec.toNat =
    [r.toNat % 2 ^ 8, r.toNat / 2 ^ 8 % 2 ^ 8, r.toNat / 2 ^ 16 % 2 ^ 8, r.toNat / 2 ^ 24 % 2 ^ 8,
      r.toNat / 2 ^ 32 % 2 ^ 8, r.toNat / 2 ^ 40]) ∧
  (∀ r : BitVec 64, (bytesOfLog r).map BitVec.toNat =
    [r.toNat % 2 ^ 8, r.toNat / 2 ^ 8 % 2 ^ 8, r.toNat / 2 ^ 16 % 2 ^ 8, r.toNat / 2 ^ 24 % 2 ^ 8,
      r.toNat / 2 ^ 32 % 2 ^ 8, r.toNat / 2 ^ 40 % 2 ^ 8, r.toNat / 2 ^ 48 % 2 ^ 8, r.toNat / 2 ^ 56]) ∧
  (∀ (w : Word) (rest : List Byte), receiveWord (bytesOfWord w ++ rest) = some (w, rest) ∧
    decodeBytes (bytesOfWord w ++ rest) = some (decode w, rest)) ∧
  (∀ (r : BitVec 48) (rest : List Byte), receiveDelivery (bytesOfDelivery r ++ rest) = some (r, rest)) ∧
  (∀ (r : BitVec 64) (rest : List Byte), receiveLog (bytesOfLog r ++ rest) = some (r, rest)) ∧
  (∀ bs : List Byte, (bs.length < 4 → receiveWord bs = none ∧ decodeBytes bs = none) ∧
    (bs.length < 6 → receiveDelivery bs = none) ∧ (bs.length < 8 → receiveLog bs = none))

/-- R92, R83: a form assembles exactly when every number fits its field and its kind is named: 8 bits for an address
or a mode, 16 for a listener or a value, 1 for a level, `User4` to `User15`. What it assembles to has those numbers as
its fields, and its word decodes to it. -/
def Obligations.AssemblyFitsFields : Prop :=
  (∀ c : AsmCmd, c.wellFormed = false → assemble c = none) ∧
  (∀ (k : AsmKey) (l : Nat),
    (∃ n, k.kind = .user n ∧ (n < 4 ∨ 15 < n)) ∨ 256 ≤ k.addr ∨ 65536 ≤ l →
    assemble (.sub k l) = none ∧ assemble (.unsub k l) = none ∧ assemble (.pub k l) = none) ∧
  (∀ (k : AsmKey) (l : Nat),
    (∀ n, k.kind = .user n → 4 ≤ n ∧ n ≤ 15) → k.addr < 256 → l < 65536 →
    ∃ (key : Key) (x : Listener), key.addr.toNat = k.addr ∧ kindName key.kind = k.kind ∧ x.toNat = l ∧
      assemble (.sub k l) = some (.sub key x) ∧ assemble (.unsub k l) = some (.unsub key x) ∧
      assemble (.pub k l) = some (.pub key x)) ∧
  (∀ a : Nat, 256 ≤ a → assemble (.dread a) = none ∧ assemble (.aread a) = none ∧
    ∀ n : Nat, assemble (.dwrite a n) = none ∧ assemble (.setmode a n) = none) ∧
  (∀ a n : Nat, (2 ≤ n → assemble (.dwrite a n) = none) ∧ (256 ≤ n → assemble (.setmode a n) = none)) ∧
  (∀ a : Nat, a < 256 → ∃ x : Addr, x.toNat = a ∧
    assemble (.dread a) = some (.dread x) ∧ assemble (.aread a) = some (.aread x) ∧
    (∀ b : Nat, b < 2 → ∃ y : Bit, y.toNat = b ∧ assemble (.dwrite a b) = some (.dwrite x y)) ∧
    (∀ m : Nat, m < 256 → ∃ y : Mode, y.toNat = m ∧ assemble (.setmode a m) = some (.setmode x y))) ∧
  assemble .tick = some .tick ∧ assemble (.ack false) = some (.ack 0) ∧ assemble (.ack true) = some (.ack 1) ∧
  (∀ (c : AsmCmd) (i : Instr), assemble c = some i → decode (encode i) = .ok i)

/-- R93: each source call is one command, at every address, listener, level and mode, and for every key of R83 and
R84, whose kind and address are the command's. -/
def Obligations.SourceCallsAreOneCommand : Prop :=
  (∀ (a l : Nat), a < 256 → l < 65536 →
    let addr : Addr := BitVec.ofNat 8 a
    let x : Listener := BitVec.ofNat 16 l
    assemble (expandCall (.subscribeDigitalRising a l)) = some (.sub ⟨0, addr⟩ x) ∧
    assemble (expandCall (.subscribeDigitalFalling a l)) = some (.sub ⟨1, addr⟩ x) ∧
    assemble (expandCall (.subscribeDigitalChange a l)) = some (.sub ⟨2, addr⟩ x) ∧
    assemble (expandCall (.subscribeAnalogChange a l)) = some (.sub ⟨3, addr⟩ x) ∧
    assemble (expandCall (.unsubscribeDigitalRising a l)) = some (.unsub ⟨0, addr⟩ x) ∧
    assemble (expandCall (.unsubscribeDigitalFalling a l)) = some (.unsub ⟨1, addr⟩ x) ∧
    assemble (expandCall (.unsubscribeDigitalChange a l)) = some (.unsub ⟨2, addr⟩ x) ∧
    assemble (expandCall (.unsubscribeAnalogChange a l)) = some (.unsub ⟨3, addr⟩ x)) ∧
  (∀ (k : AsmKey) (n : Nat), k.wellFormed = true → n < 65536 →
    ∃ key : Key, key.addr.toNat = k.addr ∧ kindName key.kind = k.kind ∧
      assemble (expandCall (.subscribe k n)) = some (.sub key (BitVec.ofNat 16 n)) ∧
      assemble (expandCall (.unsubscribe k n)) = some (.unsub key (BitVec.ofNat 16 n)) ∧
      assemble (expandCall (.publish k n)) = some (.pub key (BitVec.ofNat 16 n))) ∧
  (∀ a : Nat, a < 256 →
    let addr : Addr := BitVec.ofNat 8 a
    assemble (expandCall (.digitalRead a)) = some (.dread addr) ∧
    assemble (expandCall (.analogRead a)) = some (.aread addr) ∧
    (∀ b : Nat, b < 2 → assemble (expandCall (.digitalWrite a b)) = some (.dwrite addr (BitVec.ofNat 1 b))) ∧
    (∀ m : Nat, m < 256 → assemble (expandCall (.setPinMode a m)) = some (.setmode addr (BitVec.ofNat 8 m)))) ∧
  assemble (expandCall .listenerReturns) = some (.ack 0) ∧
  assemble (expandCall .listenerThrows) = some (.ack 1)

/-- The words of the ports have the fields of R85 (response), R87 (delivery) and R88 (log). -/
def Obligations.PortWordsHaveTheirFields : Prop :=
  (∀ (st : Status) (count : BitVec 12) (data : Value),
    (packResponse st count data).toNat = (statusCode st).toNat * 2 ^ 28 + count.toNat * 2 ^ 16 + data.toNat) ∧
  (∀ (l : Listener) (k : Key) (v : Value),
    (packDelivery l k v).toNat =
      l.toNat * 2 ^ 32 + k.kind.toNat * 2 ^ 28 + k.addr.toNat * 2 ^ 16 + v.toNat) ∧
  (∀ (type : BitVec 4) (kind : Kind) (addr : Addr) (l : Listener) (v : Value) (count : BitVec 16),
    (packLog type kind addr l v count).toNat =
      type.toNat * 2 ^ 60 + kind.toNat * 2 ^ 56 + addr.toNat * 2 ^ 48 + l.toNat * 2 ^ 32 + v.toNat * 2 ^ 16 +
        count.toNat)

/-! ## Parameters and routing -/

/-- 00_scope.md R7: every configuration has its parameters in their ranges, and this block's has `RISING_LEVEL` = 1
and `MUX_CHANNELS` = 16 (how parameters are held is the model's, assumption log 3 and 4). -/
def Obligations.ParametersInRange : Prop :=
  (∀ p : Params, 12 ≤ p.adcBits ∧ p.adcBits ≤ 16 ∧ 1 ≤ p.subCapacity ∧ p.subCapacity ≤ 4095 ∧ 3 ≤ p.maxDepth ∧
    p.expAddrA ≠ p.expAddrB ∧ p.expAddrA ≠ p.expAddrC ∧ p.expAddrB ≠ p.expAddrC) ∧
  Config.params.risingLevel = 1 ∧ Config.params.muxChannels = 16

/-- 20_memory.md R51, row by row. -/
def Obligations.DigitalRoutingTable : Prop :=
  ∀ a : Addr,
    let n := a.toNat
    (1 ≤ n ∧ n ≤ 16 → routeD a = .dev .expA (n - 1)) ∧
    (17 ≤ n ∧ n ≤ 32 → routeD a = .dev .expB (n - 17)) ∧
    (33 ≤ n ∧ n ≤ 46 → routeD a = .dev .localBank n) ∧
    (n = 47 ∨ n = 48 → routeD a = .reserved) ∧
    (49 ≤ n ∧ n ≤ 64 → routeD a = .dev .expC (n - 49)) ∧
    (n = 0 ∨ 65 ≤ n → routeD a = .outOfRange)

/-- 20_memory.md R52, row by row. -/
def Obligations.AnalogRoutingTable : Prop :=
  ∀ a : Addr,
    let n := a.toNat
    (1 ≤ n ∧ n ≤ 16 → ∃ ch : Channel, ch.toNat = n - 1 ∧ routeA a = .mux ch) ∧
    (n = 47 → routeA a = .adc 1) ∧
    (n = 48 → routeA a = .adc 2) ∧
    (n = 0 ∨ (17 ≤ n ∧ n ≤ 46) ∨ 49 ≤ n → routeA a = .outOfRange)

/-- 20_memory.md R53, R54, R55: every line 0..15 of every expander is the line of exactly one digital address, and no
address asks an expander for another line. -/
def Obligations.ExpandersPartitionTheirLines : Prop :=
  (∀ (d : Device) (idx : Nat), d ≠ .localBank → idx < 16 → ∃ a, routeD a = .dev d idx ∧
    ∀ b, routeD b = .dev d idx → b = a) ∧
  (∀ (a : Addr) (d : Device) (idx : Nat), routeD a = .dev d idx → d ≠ .localBank → idx < 16)

/-! ## Direct I/O -/

/-- R111: `DREAD` at every address, with its word, its whole next state, and so its frame. -/
def Obligations.DreadEffect : Prop :=
  ∀ (a : Addr) (s : State),
    encode (.dread a) = (0x4 : BitVec 4) ++ (0 : BitVec 4) ++ a ++ (0 : BitVec 16) ∧
    (routeD a = .outOfRange → exec (.dread a) s = .next { s with
      resp := s.resp ++ [0x10000000]
      log := s.log ++ [(0x50 : BitVec 8) ++ a ++ (0x000000040000 : BitVec 48)] }) ∧
    (routeD a = .reserved → exec (.dread a) s = .next { s with resp := s.resp ++ [0] }) ∧
    (∀ (d : Device) (idx : Nat) (b : Bit), routeD a = .dev d idx → levelOf (nextDraw s) = .ok b →
      exec (.dread a) s = .next { dropDraw s with
        resp := s.resp ++ [b.setWidth 32]
        devhist := s.devhist ++ [.devRead d idx (.ok b)] }) ∧
    (∀ (d : Device) (idx : Nat), routeD a = .dev d idx → levelOf (nextDraw s) = .fail →
      exec (.dread a) s = .next { dropDraw s with
        resp := s.resp ++ [0x40000000]
        log := s.log ++ [(0x40 : BitVec 8) ++ a ++ (0x000000040000 : BitVec 48)]
        devhist := s.devhist ++ [.devRead d idx .fail] })

/-- R112: `DWRITE` at every address, with its word, its whole next state, and so its frame. -/
def Obligations.DwriteEffect : Prop :=
  ∀ (a : Addr) (b : Bit) (s : State),
    encode (.dwrite a b) = (0x5 : BitVec 4) ++ (0 : BitVec 4) ++ a ++ (0 : BitVec 15) ++ b ∧
    (routeD a = .outOfRange → exec (.dwrite a b) s = .next { s with
      resp := s.resp ++ [0x10000000]
      log := s.log ++ [(0x50 : BitVec 8) ++ a ++ (0x000000050000 : BitVec 48)] }) ∧
    (routeD a = .reserved → exec (.dwrite a b) s = .next { s with resp := s.resp ++ [0] }) ∧
    (∀ (d : Device) (idx : Nat), routeD a = .dev d idx → (nextDraw s).ok = true →
      exec (.dwrite a b) s = .next { dropDraw s with
        resp := s.resp ++ [0]
        devhist := s.devhist ++ [.devWrite d idx b (.ok 0)] }) ∧
    (∀ (d : Device) (idx : Nat), routeD a = .dev d idx → (nextDraw s).ok = false →
      exec (.dwrite a b) s = .next { dropDraw s with
        resp := s.resp ++ [0x40000000]
        log := s.log ++ [(0x40 : BitVec 8) ++ a ++ (0x000000050000 : BitVec 48)]
        devhist := s.devhist ++ [.devWrite d idx b .fail] })

/-- R113, R56: `AREAD` at every address, with its word, its whole next state, and so its frame. -/
def Obligations.AreadEffect : Prop :=
  ∀ (a : Addr) (s : State),
    encode (.aread a) = (0x6 : BitVec 4) ++ (0 : BitVec 4) ++ a ++ (0 : BitVec 16) ∧
    (routeA a = .outOfRange → exec (.aread a) s = .next { s with
      resp := s.resp ++ [0x10000000]
      log := s.log ++ [(0x51 : BitVec 8) ++ a ++ (0x000000060000 : BitVec 48)] }) ∧
    (∀ ch : Channel, routeA a = .mux ch → s.cfg.muxChannels ≤ ch.toNat →
      exec (.aread a) s = .next { s with resp := s.resp ++ [0] }) ∧
    (∀ (recs : Answer 16 → List DevRecord),
      (∃ ch : Channel, routeA a = .mux ch ∧ ch.toNat < s.cfg.muxChannels ∧
          recs = fun r => [.muxSelect ch, .muxRead ch r]) ∨
        (∃ c : Nat, routeA a = .adc c ∧ recs = fun r => [.adcRead c r]) →
      (∀ v : Value, sampleOf s.cfg (nextDraw s) = .ok v →
        exec (.aread a) s = .next { dropDraw s with
          resp := s.resp ++ [v.setWidth 32]
          devhist := s.devhist ++ recs (.ok v) }) ∧
      (sampleOf s.cfg (nextDraw s) = .fail →
        exec (.aread a) s = .next { dropDraw s with
          resp := s.resp ++ [0x40000000]
          log := s.log ++ [(0x41 : BitVec 8) ++ a ++ (0x000000060000 : BitVec 48)]
          devhist := s.devhist ++ recs .fail }))

/-- R114: `SETMODE` at every address, with its word, its whole next state, and so its frame. -/
def Obligations.SetmodeEffect : Prop :=
  ∀ (a : Addr) (m : Mode) (s : State),
    encode (.setmode a m) = (0x7 : BitVec 4) ++ (0 : BitVec 4) ++ a ++ (0 : BitVec 8) ++ m ∧
    (routeD a = .outOfRange → exec (.setmode a m) s = .next { s with
      resp := s.resp ++ [0x10000000]
      log := s.log ++ [(0x50 : BitVec 8) ++ a ++ (0x000000070000 : BitVec 48)] }) ∧
    (routeD a = .reserved → exec (.setmode a m) s = .next { s with resp := s.resp ++ [0] }) ∧
    (∀ (d : Device) (idx : Nat), routeD a = .dev d idx → (nextDraw s).ok = true →
      exec (.setmode a m) s = .next { dropDraw s with
        resp := s.resp ++ [0]
        devhist := s.devhist ++ [.devMode d idx m (.ok 0)] }) ∧
    (∀ (d : Device) (idx : Nat), routeD a = .dev d idx → (nextDraw s).ok = false →
      exec (.setmode a m) s = .next { dropDraw s with
        resp := s.resp ++ [0x40000000]
        log := s.log ++ [(0x40 : BitVec 8) ++ a ++ (0x000000070000 : BitVec 48)]
        devhist := s.devhist ++ [.devMode d idx m .fail] })

/-- R110: each direct command completes in one step from every state, emits exactly one response, makes at most one
device access, and changes nothing of the block's state. -/
def Obligations.DirectCommandsLeaveBlockState : Prop :=
  ∀ (i : Instr) (s : State),
    (∃ a, i = .dread a) ∨ (∃ a b, i = .dwrite a b) ∨ (∃ a, i = .aread a) ∨ (∃ a m, i = .setmode a m) →
    ∃ t, exec i s = .next t ∧ t.dcache = s.dcache ∧ t.acache = s.acache ∧ t.registry = s.registry ∧
      t.tickPending = s.tickPending ∧ t.stack = s.stack ∧ t.cfg = s.cfg ∧ t.inputs = s.inputs ∧
      t.inputCount = s.inputCount ∧ t.deliv = s.deliv ∧
      (∃ r, t.resp = s.resp ++ [r]) ∧
      ((t.devhist = s.devhist ∧ t.draws = s.draws ∧ t.drawCount = s.drawCount) ∨
        (t.draws = (dropDraw s).draws ∧ t.drawCount = (dropDraw s).drawCount ∧
          ((∃ e, t.devhist = s.devhist ++ [e]) ∨
            ∃ ch r, t.devhist = s.devhist ++ [.muxSelect ch, .muxRead ch r])))

/-! ## The tick and reset -/

/-- R140: `TICK` requests a pass, logs an overrun when one is pending, and responds `OK`; nothing else changes. -/
def Obligations.TickEffect : Prop :=
  encode .tick = 0 ∧
  ∀ s : State, exec .tick s = .next { s with
    tickPending := true
    resp := s.resp ++ [0x00000000]
    log := s.log ++ (if s.tickPending then [0x9000000000000000] else []) }

/-- R141: the tick input is taken in any state; it requests a pass, logs an overrun when one is pending, and emits no
response. -/
def Obligations.TickInputEffect : Prop :=
  ∀ (s : State) (more : List Input), s.inputs = .tick :: more →
    step s = .next { s with
      inputs := more
      tickPending := true
      log := s.log ++ (if s.tickPending then [0x9000000000000000] else []) }

/-- 10_state.md section 5, R260: the reset values of the block's state; the traces start empty, which R32 lets a model
choose (assumption log 5). -/
def Obligations.ResetValues : Prop :=
  (∀ i : Fin 64, State.reset.dcache[i] = .empty) ∧ (∀ i : Fin 18, State.reset.acache[i] = .empty) ∧
  State.reset.registry = [] ∧ State.reset.tickPending = false ∧ State.reset.stack = [] ∧
  State.reset.resp = [] ∧ State.reset.deliv = [] ∧ State.reset.log = [] ∧ State.reset.devhist = []

/-- R260: taking reset, in any state, gives the block's state its reset values and emits nothing; that it leaves the
moves and the device answers to come as they are is the model's (assumption log 18). -/
def Obligations.ResetStep : Prop :=
  ∀ (s : State) (more : List Input), s.inputs = .reset :: more →
    ∃ t, step s = .next t ∧
      (∀ i : Fin 64, t.dcache[i] = .empty) ∧ (∀ i : Fin 18, t.acache[i] = .empty) ∧
      t.registry = [] ∧ t.tickPending = false ∧ t.stack = [] ∧
      t.resp = s.resp ∧ t.deliv = s.deliv ∧ t.log = s.log ∧ t.devhist = s.devhist ∧
      t.cfg = s.cfg ∧ t.inputs = more ∧ t.inputCount = s.inputCount ∧ t.draws = s.draws ∧
      t.drawCount = s.drawCount

/-! ## The sampling pass -/

/-- R142: from idle with a tick pending the sequencer starts a pass at D1 and clears the tick. -/
def Obligations.PassStartStep : Prop :=
  ∀ (s : State) (more : List Input), s.stack = [] → s.tickPending = true → s.inputs = .seq :: more →
    step s = .next { s with
      inputs := more
      tickPending := false
      stack := [.pass ⟨.digital 0, []⟩]
      log := s.log ++ [0xA000000000000000] }

/-- R143: the addresses of the cursor in order: digital 1..64, analog 1..16, 47, 48, `END`. -/
def Obligations.CursorOrder : Prop :=
  (∀ i : Fin 64, (digitalAddr i).toNat = i.val + 1) ∧
  (∀ i : Fin 18, (analogAddr i).toNat = if i.val < 16 then i.val + 1 else i.val + 31) ∧
  (∀ (i j : Fin 64), j.val = i.val + 1 → nextCursor (.digital i) = .digital j) ∧
  nextCursor (.digital 63) = .analog 0 ∧
  (∀ (i j : Fin 18), j.val = i.val + 1 → nextCursor (.analog i) = .analog j) ∧
  nextCursor (.analog 17) = .finished

/-- R146, R147: a change to level b publishes the edge event first and `DigitalChange` second, both with the level;
with `RISING_LEVEL` = 1 a change to 1 is `DigitalRising` (kind 0), a change to 0 `DigitalFalling` (kind 1). -/
def Obligations.DigitalEventsOfChange : Prop :=
  (∀ (cfg : Params) (a : Addr) (b : Bit),
    digitalEvents cfg a b =
      [⟨⟨if b = cfg.risingLevel then 0 else 1, a⟩, b.setWidth 16⟩, ⟨⟨2, a⟩, b.setWidth 16⟩]) ∧
  (∀ a : Addr, digitalEvents Config.params a 1 = [⟨⟨0, a⟩, 1⟩, ⟨⟨2, a⟩, 1⟩] ∧
    digitalEvents Config.params a 0 = [⟨⟨1, a⟩, 0⟩, ⟨⟨2, a⟩, 0⟩])

/-- R144, R145: a digital sample step at a routed address, by the old entry and the device's answer. -/
def Obligations.DigitalSampleStep : Prop :=
  ∀ (s : State) (i : Fin 64) (d : Device) (idx : Nat) (rest : List Frame) (more : List Input),
    s.stack = .pass ⟨.digital i, []⟩ :: rest → s.inputs = .seq :: more → routeD (digitalAddr i) = .dev d idx →
    ∃ t, step s = .next t ∧
      t.devhist = s.devhist ++ [.devRead d idx (levelOf (nextDraw s))] ∧
      t.draws = (dropDraw s).draws ∧ t.drawCount = (dropDraw s).drawCount ∧ t.inputs = more ∧
      t.inputCount = s.inputCount ∧ t.cfg = s.cfg ∧ t.acache = s.acache ∧ t.registry = s.registry ∧
      t.tickPending = s.tickPending ∧ t.resp = s.resp ∧ t.deliv = s.deliv ∧
      (∀ j : Fin 64, j ≠ i → t.dcache[j] = s.dcache[j]) ∧
      (levelOf (nextDraw s) = .fail →
        t.dcache[i] = s.dcache[i] ∧ t.stack = .pass ⟨nextCursor (.digital i), []⟩ :: rest ∧
        t.log = s.log ++ [(0x40 : BitVec 8) ++ digitalAddr i ++ (0 : BitVec 48)]) ∧
      (∀ b, levelOf (nextDraw s) = .ok b → t.dcache[i] = .held b ∧ t.log = s.log ∧
        (s.dcache[i] = .empty ∨ s.dcache[i] = .held b →
          t.stack = .pass ⟨nextCursor (.digital i), []⟩ :: rest) ∧
        (∀ c, s.dcache[i] = .held c → c ≠ b →
          t.stack = .pass ⟨nextCursor (.digital i), digitalEvents s.cfg (digitalAddr i) b⟩ :: rest))

/-- R144, R151: digital 47 and 48 are sampled as the constant 0 with no access; while their entries hold no 1, which
the invariant gives, no event comes of it. -/
def Obligations.ReservedSampleStep : Prop :=
  ∀ (s : State) (i : Fin 64) (rest : List Frame) (more : List Input),
    s.stack = .pass ⟨.digital i, []⟩ :: rest → s.inputs = .seq :: more → i = 46 ∨ i = 47 →
    s.dcache[i] ≠ .held 1 →
    step s = .next { s with
      inputs := more
      dcache := s.dcache.set i.val (.held 0) i.isLt
      stack := .pass ⟨nextCursor (.digital i), []⟩ :: rest }

/-- R148, R149: an analog sample step, by the old entry and the answer; a channel at or above `MUX_CHANNELS` answers 0
with no access (R56). -/
def Obligations.AnalogSampleStep : Prop :=
  ∀ (s : State) (i : Fin 18) (rest : List Frame) (more : List Input),
    s.stack = .pass ⟨.analog i, []⟩ :: rest → s.inputs = .seq :: more →
    ∃ t, ∃ r : Answer 16, step s = .next t ∧
      (if i.val < 16 ∧ s.cfg.muxChannels ≤ i.val then
        r = .ok 0 ∧ t.devhist = s.devhist ∧ t.draws = s.draws ∧ t.drawCount = s.drawCount
      else
        r = sampleOf s.cfg (nextDraw s) ∧ t.draws = (dropDraw s).draws ∧ t.drawCount = (dropDraw s).drawCount ∧
        t.devhist = s.devhist ++
          (if i.val < 16 then [.muxSelect (BitVec.ofNat 4 i.val), .muxRead (BitVec.ofNat 4 i.val) r]
          else [.adcRead (i.val - 15) r])) ∧
      t.inputs = more ∧ t.inputCount = s.inputCount ∧ t.cfg = s.cfg ∧ t.dcache = s.dcache ∧
      t.registry = s.registry ∧ t.tickPending = s.tickPending ∧ t.resp = s.resp ∧ t.deliv = s.deliv ∧
      (∀ j : Fin 18, j ≠ i → t.acache[j] = s.acache[j]) ∧
      (r = .fail →
        t.acache[i] = s.acache[i] ∧ t.stack = .pass ⟨nextCursor (.analog i), []⟩ :: rest ∧
        t.log = s.log ++ [(0x41 : BitVec 8) ++ analogAddr i ++ (0 : BitVec 48)]) ∧
      (∀ v, r = .ok v → t.acache[i] = .held v ∧ t.log = s.log ∧
        (s.acache[i] = .empty ∨ s.acache[i] = .held v →
          t.stack = .pass ⟨nextCursor (.analog i), []⟩ :: rest) ∧
        (∀ u, s.acache[i] = .held u → u ≠ v →
          t.stack = .pass ⟨nextCursor (.analog i), [⟨⟨3, analogAddr i⟩, v⟩]⟩ :: rest))

/-- R150, R183: the pass publishes its first pending event: a `PUBLISH` record with the number of listeners, and a
dispatch frame with origin `PASS` and the snapshot above the pass. -/
def Obligations.PassPublishStep : Prop :=
  ∀ (s : State) (c : Cursor) (e : Event) (more : List Event) (rest : List Frame) (moves : List Input),
    s.stack = .pass ⟨c, e :: more⟩ :: rest → s.inputs = .seq :: moves →
    step s = .next { s with
      inputs := moves
      stack := .disp ⟨e.key, e.value, snapshot e.key s, 0, false, .pass⟩ :: .pass ⟨c, more⟩ :: rest
      log := s.log ++ [(0 : BitVec 4) ++ e.key.kind ++ e.key.addr ++ (0 : BitVec 16) ++ e.value ++
        BitVec.ofNat 16 (snapshot e.key s).length] }

/-- R152: at `END` with nothing pending the pass is popped and `PASS_END` logged. -/
def Obligations.PassEndStep : Prop :=
  ∀ (s : State) (rest : List Frame) (more : List Input),
    s.stack = .pass ⟨.finished, []⟩ :: rest → s.inputs = .seq :: more →
    step s = .next { s with
      inputs := more
      stack := rest
      log := s.log ++ [0xB000000000000000] }

/-- 60_exceptions.md R251, 70_reset_and_hazards.md R268: idle with no tick pending, or awaiting an ACK, the
sequencer has nothing to do: a move given to it changes nothing. That such a move exists is the model's (assumption
log 6). -/
def Obligations.SequencerWaits : Prop :=
  ∀ (s : State) (more : List Input), s.inputs = .seq :: more →
    (s.stack = [] ∧ s.tickPending = false) ∨ (∃ d rest, s.stack = .disp d :: rest ∧ d.sent = true) →
    step s = .next { s with inputs := more }

/-! ## The event bus -/

/-- R180: `SUB` with its word and its three outcomes, the duplicate test before the capacity test (R241). -/
def Obligations.SubEffect : Prop :=
  ∀ (k : Key) (l : Listener) (s : State),
    encode (.sub k l) = (0x1 : BitVec 4) ++ k.kind ++ k.addr ++ l ∧
    ((⟨k, l⟩ : SubEntry) ∈ s.registry → exec (.sub k l) s = .next { s with
      resp := s.resp ++ [0x20000000]
      log := s.log ++ [(0x2 : BitVec 4) ++ k.kind ++ k.addr ++ l ++ (0 : BitVec 32)] }) ∧
    ((⟨k, l⟩ : SubEntry) ∉ s.registry → s.registry.length = s.cfg.subCapacity →
      exec (.sub k l) s = .next { s with
        resp := s.resp ++ [0x50000000]
        log := s.log ++ [(0x6 : BitVec 4) ++ k.kind ++ k.addr ++ l ++ (0 : BitVec 32)] }) ∧
    ((⟨k, l⟩ : SubEntry) ∉ s.registry → s.registry.length ≠ s.cfg.subCapacity →
      exec (.sub k l) s = .next { s with
        registry := s.registry ++ [⟨k, l⟩]
        resp := s.resp ++ [0x00000000] })

/-- R181: `UNSUB` of an absent pair reports it; of a present one it removes that one entry, the others keeping their
order. -/
def Obligations.UnsubEffect : Prop :=
  ∀ (k : Key) (l : Listener) (s : State),
    encode (.unsub k l) = (0x2 : BitVec 4) ++ k.kind ++ k.addr ++ l ∧
    ((⟨k, l⟩ : SubEntry) ∉ s.registry → exec (.unsub k l) s = .next { s with
      resp := s.resp ++ [0x30000000]
      log := s.log ++ [(0x3 : BitVec 4) ++ k.kind ++ k.addr ++ l ++ (0 : BitVec 32)] }) ∧
    (∀ front back : List SubEntry, s.registry = front ++ (⟨k, l⟩ : SubEntry) :: back →
      (⟨k, l⟩ : SubEntry) ∉ front →
      exec (.unsub k l) s = .next { s with
        registry := front ++ back
        resp := s.resp ++ [0x00000000] })

/-- R182, R183: `PUB` with the stack full is refused and publishes nothing; otherwise it logs `PUBLISH` and pushes its
dispatch frame, with the listeners of its key as the registry has them now, and its response comes later (R186). -/
def Obligations.PubEffect : Prop :=
  ∀ (k : Key) (v : Value) (s : State),
    encode (.pub k v) = (0x3 : BitVec 4) ++ k.kind ++ k.addr ++ v ∧
    (s.stack.length = s.cfg.maxDepth → exec (.pub k v) s = .next { s with
      resp := s.resp ++ [0x60000000]
      log := s.log ++ [(0x7 : BitVec 4) ++ k.kind ++ k.addr ++ (0 : BitVec 16) ++ v ++ (0 : BitVec 16)] }) ∧
    (s.stack.length ≠ s.cfg.maxDepth → ∀ snap, snap = (s.registry.filter (fun e => e.key = k)).map (·.listener) →
      exec (.pub k v) s = .next { s with
        stack := .disp ⟨k, v, snap, 0, false, .host⟩ :: s.stack
        log := s.log ++ [(0x0 : BitVec 4) ++ k.kind ++ k.addr ++ (0 : BitVec 16) ++ v ++
          BitVec.ofNat 16 snap.length] })

/-- R184: the deliver step emits the record of the listener at `pos` and awaits its ACK. -/
def Obligations.DeliverStep : Prop :=
  ∀ (s : State) (d : DispFrame) (l : Listener) (rest : List Frame) (more : List Input),
    s.stack = .disp d :: rest → s.inputs = .seq :: more → d.sent = false → d.snap[d.pos]? = some l →
    step s = .next { s with
      inputs := more
      stack := .disp { d with sent := true } :: rest
      deliv := s.deliv ++ [l ++ d.key.kind ++ (0 : BitVec 4) ++ d.key.addr ++ d.value] }

/-- R186: past its last listener a dispatch is popped; a `PUB` gets its response with the count, the pass nothing. -/
def Obligations.CompleteStep : Prop :=
  ∀ (s : State) (d : DispFrame) (rest : List Frame) (more : List Input),
    s.stack = .disp d :: rest → s.inputs = .seq :: more → d.sent = false → d.pos = d.snap.length →
    step s = .next { s with
      inputs := more
      stack := rest
      resp := s.resp ++
        (if d.origin = .host then [(0 : BitVec 4) ++ BitVec.ofNat 12 d.snap.length ++ (0 : BitVec 16)] else []) }

/-- R185: `ACK` with its words: with a delivery to listener l awaited it ends it, logging `LISTENER_FAULT` when the
fault bit is 1, with no response; with none awaited it is illegal, its record carrying the word, and no state
changes. -/
def Obligations.AckEffect : Prop :=
  encode (.ack 0) = 0x80000000 ∧ encode (.ack 1) = 0x80000001 ∧
  (∀ (f : Bit) (s : State) (d : DispFrame) (l : Listener) (rest : List Frame),
    s.stack = .disp d :: rest → d.sent = true → d.snap[d.pos]? = some l →
    exec (.ack f) s = .next { s with
      stack := .disp { d with pos := d.pos + 1, sent := false } :: rest
      log := s.log ++ (if f = 1 then
        [(0x1 : BitVec 4) ++ d.key.kind ++ d.key.addr ++ l ++ d.value ++ BitVec.ofNat 16 d.pos] else []) }) ∧
  (∀ (f : Bit) (s : State), (∀ d rest, s.stack = .disp d :: rest → d.sent = false) →
    exec (.ack f) s = .next { s with
      resp := s.resp ++ [0x70000000]
      log := s.log ++ [(0x800000008000000 : BitVec 60) ++ (0 : BitVec 3) ++ f] })

/-- R238: a word that decodes to no command, taken while the block is accepting, and an ACK taken while none is
awaited (an accepting block is then idle, R35), are not executed: response 0x7000_0000, a log record with the word, and
no state changes. -/
def Obligations.IllegalWordStep : Prop :=
  ∀ (s : State) (w : Word) (more : List Input), accepting s = true → s.inputs = .host w :: more →
    (∃ c, decode w = .error c) ∨ (s.stack = [] ∧ ∃ f, decode w = .ok (.ack f)) →
    step s = .next { s with
      inputs := more
      resp := s.resp ++ [0x70000000]
      log := s.log ++ [(0x80000000 : BitVec 32) ++ w] }

/-- R188: an `ACK fault` and a clean `ACK` of the same delivery lead to states that differ in the log alone. -/
def Obligations.ListenerFaultIsIsolated : Prop :=
  ∀ (s t : State), exec (.ack 1) s = .next t → accepting s = true → s.stack ≠ [] →
    ∃ r, exec (.ack 0) s = .next { t with log := s.log } ∧ t.log = s.log ++ [r] ∧ t.resp = s.resp

/-- R193.1: a `SUB` sent twice: the second reports `ALREADY_SUBSCRIBED` and leaves the registry as the first left it. -/
def Obligations.SubscribeTwice : Prop :=
  ∀ (s t : State) (k : Key) (l : Listener), exec (.sub k l) s = .next t → (⟨k, l⟩ : SubEntry) ∈ t.registry →
    ∃ u, exec (.sub k l) t = .next u ∧ u.registry = t.registry ∧ u.resp = t.resp ++ [0x20000000] ∧
      snapshot k u = snapshot k t

/-- R193.2: after `SUB` and `UNSUB` of a pair the listener is in no snapshot of the key, so a publish does not invoke
it; the other listeners are as before the two. -/
def Obligations.SubscribeThenUnsubscribe : Prop :=
  ∀ (s t u : State) (k : Key) (l : Listener), s.registry.Nodup →
    exec (.sub k l) s = .next t → exec (.unsub k l) t = .next u →
    l ∉ snapshot k u ∧ (∀ k' l', (k', l') ≠ (k, l) → (l' ∈ snapshot k' u ↔ l' ∈ snapshot k' s))

/-- R189: the count of a publish is the number of registry entries under its key when it starts, and the number its
`PUBLISH` record carries. -/
def Obligations.CountIsMatchingEntries : Prop :=
  ∀ (s t : State) (k : Key) (v : Value), s.registry.length ≤ 4095 → s.stack.length ≠ s.cfg.maxDepth →
    exec (.pub k v) s = .next t →
    ∃ d r, t.stack = .disp d :: s.stack ∧ t.log = s.log ++ [r] ∧
      d.snap.length = s.registry.countP (fun e => e.key = k) ∧
      r.toNat % 65536 = s.registry.countP (fun e => e.key = k)

/-- R184 to R189: a dispatch delivers to every listener of its snapshot exactly once, in order, whatever each returns:
given the moves that deliver and acknowledge one by one and then complete, the deliveries are those of the snapshot,
the log gains the faults, a `PUB` gets the snapshot's length as its count, and the rest of the state is as before. -/
def Obligations.DispatchDeliversSnapshot : Prop :=
  ∀ (s : State) (d : DispFrame) (rest : List Frame) (fs : List Bit) (more : List Input),
    s.stack = .disp d :: rest → d.pos = 0 → d.sent = false → fs.length = d.snap.length →
    s.inputs = ackMoves fs ++ .seq :: more →
    steps (2 * fs.length + 1) s = .next { s with
      inputs := more
      stack := rest
      deliv := s.deliv ++ d.snap.map (fun l => packDelivery l d.key d.value)
      log := s.log ++ faultRecords d.key d.value 0 (d.snap.zip fs)
      resp := s.resp ++
        (if d.origin = .host then [(0 : BitVec 4) ++ BitVec.ofNat 12 d.snap.length ++ (0 : BitVec 16)] else []) }

/-! ## The whole machine -/

/-- R90, R35: in an accepting state the word the HOST sends is decoded and its command executed on the state with that
word taken; the step adds nothing around it. -/
def Obligations.StepRunsDecodedCommand : Prop :=
  ∀ (s : State) (w : Word) (i : Instr) (more : List Input),
    accepting s = true → s.inputs = .host w :: more → decode w = .ok i →
    step s = exec i { s with inputs := more }

/-- R35: a word offered while the block is not accepting waits, unanswered: the sequencer steps as it would without
it, and the word is still offered afterwards (that such a move is the sequencer's is assumption log 7). -/
def Obligations.WordWaitsUntilAccepting : Prop :=
  ∀ (s : State) (w : Word) (more : List Input), accepting s = false → s.inputs = .host w :: more →
    match step { s with inputs := .seq :: more } with
    | .next t => t.inputs = more ∧ step s = .next { t with inputs := .host w :: more }
    | .fault r => step s = .fault r
    | .refused r => step s = .refused r

/-- R153: in every state at most one sequencer step is enabled. The sequencer's move takes the one that is enabled and
has its effect; where none is, it changes nothing (assumption log 6), or stops on a frame whose `pos` is past its
snapshot, which R31 excludes (assumption log 8). -/
def Obligations.AtMostOneSeqStepEnabled : Prop :=
  ∀ s : State,
    (∀ j k : SeqKind, seqEnabled j s = true → seqEnabled k s = true → j = k) ∧
    (∀ more : List Input, s.inputs = .seq :: more → step s = seqStep { s with inputs := more }) ∧
    (∀ k : SeqKind, seqEnabled k s = true → seqStep s = .next (seqEffect k s)) ∧
    ((∀ k : SeqKind, seqEnabled k s = false) →
      ((∃ d rest, s.stack = .disp d :: rest ∧ d.sent = false ∧ d.snap.length < d.pos) →
        seqStep s = .fault .brokenFrame) ∧
      (¬ (∃ d rest, s.stack = .disp d :: rest ∧ d.sent = false ∧ d.snap.length < d.pos) → seqStep s = .next s))

/-- R243, R153, R35: in a state that meets the invariant the sequencer has an enabled step exactly when the block is
not accepting, or is idle with a tick pending, and then that step is the pass start. -/
def Obligations.SeqEnabledExactlyWhenNotAccepting : Prop :=
  ∀ s : State, BlockInv s →
    ((∃ k, seqEnabled k s = true) ↔ (accepting s = false ∨ (s.stack = [] ∧ s.tickPending = true))) ∧
    (accepting s = true → ∀ k, seqEnabled k s = true → k = .passStart)

/-- The state right after reset meets the invariant (R34, R260). -/
def Obligations.ResetMeetsInvariant : Prop :=
  BlockInv State.reset

/-- R34, R25, R27, R151: every step from a state that meets the invariant leads to one that does. -/
def Obligations.StepKeepsInvariant : Prop :=
  ∀ s t : State, BlockInv s → step s = .next t → BlockInv t

/-- R240: from a state that meets the invariant no move of any agent stops the block, whatever the devices answer. -/
def Obligations.NothingHaltsTheBlock : Prop :=
  ∀ s : State, BlockInv s → ∃ t, step s = .next t

/-- R26: a step changes a cache entry only if it is a reset or the sample step of that very entry: the sample frame is
on top and the step is the sequencer's, no tick. -/
def Obligations.OnlySamplesAndResetChangeCaches : Prop :=
  ∀ s t : State, step s = .next t → nextInput s ≠ .reset →
    (∀ j : Fin 64, t.dcache[j] ≠ s.dcache[j] →
      nextInput s ≠ .tick ∧ ∃ rest, s.stack = .pass ⟨.digital j, []⟩ :: rest) ∧
    (∀ j : Fin 18, t.acache[j] ≠ s.acache[j] →
      nextInput s ≠ .tick ∧ ∃ rest, s.stack = .pass ⟨.analog j, []⟩ :: rest)

/-- R26, R72, R73: no command reads or writes a cache: with other caches it does the same and leaves them alone. -/
def Obligations.CommandsAreBlindToCaches : Prop :=
  ∀ (i : Instr) (s t : State) (d : Vector (CacheEntry 1) 64) (a : Vector (CacheEntry 16) 18),
    exec i s = .next t →
    t.dcache = s.dcache ∧ t.acache = s.acache ∧ exec i (withCaches d a s) = .next (withCaches d a t)

/-- R32: the output traces are observations: every step does to the block's state the same whatever they hold, and
only appends to them. -/
def Obligations.TracesAreObservations : Prop :=
  ∀ s : State,
    match step (withoutTraces s) with
    | .next t => step s = .next (afterTracesOf s t)
    | .fault r => step s = .fault r
    | .refused r => step s = .refused r

/-- R7, R53: no step changes the configuration. -/
def Obligations.ConfigurationIsFixed : Prop :=
  ∀ s t : State, step s = .next t → t.cfg = s.cfg

/-- R187, R183: unless it is a reset, a step leaves every frame below the top as it is, but for the frame it pushes
above or the frame it pops; and a dispatch frame that stays keeps its key, value, snapshot and origin. -/
def Obligations.DispatchKeepsItsSnapshot : Prop :=
  ∀ s t : State, step s = .next t → nextInput s ≠ .reset →
    t.stack = s.stack ∨ (∃ f rest, s.stack = f :: rest ∧ t.stack = rest) ∨ (∃ f, t.stack = f :: s.stack) ∨
    (∃ c p c' p' rest, s.stack = .pass ⟨c, p⟩ :: rest ∧ t.stack = .pass ⟨c', p'⟩ :: rest) ∨
    (∃ c e more d rest, s.stack = .pass ⟨c, e :: more⟩ :: rest ∧ t.stack = .disp d :: .pass ⟨c, more⟩ :: rest) ∨
    (∃ d rest pos sent, s.stack = .disp d :: rest ∧
      t.stack = .disp { d with pos := pos, sent := sent } :: rest)

/-- R85, R241: every command is answered at once by exactly one response and reports at most one log record, except
an ACK of an awaited delivery, which has no response, and an accepted `PUB`, whose response comes with its dispatch's
end. -/
def Obligations.OneResponseOneRecord : Prop :=
  ∀ (i : Instr) (s t : State), exec i s = .next t →
    (t.log = s.log ∨ ∃ r, t.log = s.log ++ [r]) ∧ t.deliv = s.deliv ∧
    ((∃ r, t.resp = s.resp ++ [r] ∧ t.stack = s.stack) ∨
      (t.resp = s.resp ∧ ((∃ f, i = .ack f ∧ accepting s = true ∧ s.stack ≠ []) ∨
        (∃ k v, i = .pub k v ∧ s.stack.length ≠ s.cfg.maxDepth))))

/-- R67, R68, R155: when the sample step of a routed digital address finds the level changed from x to y, the pass
publishes, before it samples the next address, exactly the edge event and then `DigitalChange`, each delivered to each
of its listeners in subscription order. -/
def Obligations.ChangedPinPublishesEdgeThenChange : Prop :=
  ∀ (s : State) (i : Fin 64) (d : Device) (idx : Nat) (x y : Bit) (edge change : List Bit) (more : List Input)
    (ke kc : Key) (le lc : List Listener),
    s.stack = [.pass ⟨.digital i, []⟩] → routeD (digitalAddr i) = .dev d idx →
    s.dcache[i] = .held x → levelOf (nextDraw s) = .ok y → x ≠ y →
    ke = ⟨if y = s.cfg.risingLevel then 0 else 1, digitalAddr i⟩ → kc = ⟨2, digitalAddr i⟩ →
    le = snapshot ke s → lc = snapshot kc s → edge.length = le.length → change.length = lc.length →
    s.inputs = .seq :: .seq :: (ackMoves edge ++ .seq :: .seq :: (ackMoves change ++ .seq :: more)) →
    steps (2 * edge.length + 2 * change.length + 5) s = .next { dropDraw s with
      inputs := more
      stack := [.pass ⟨nextCursor (.digital i), []⟩]
      dcache := s.dcache.set i.val (.held y) i.isLt
      devhist := s.devhist ++ [.devRead d idx (.ok y)]
      deliv := s.deliv ++ le.map (fun l => packDelivery l ke (y.setWidth 16)) ++
        lc.map (fun l => packDelivery l kc (y.setWidth 16))
      log := s.log ++ publishRecord ke (y.setWidth 16) le.length ::
        faultRecords ke (y.setWidth 16) 0 (le.zip edge) ++ publishRecord kc (y.setWidth 16) lc.length ::
        faultRecords kc (y.setWidth 16) 0 (lc.zip change) }

/-- R261, R143, R152, 95_test_vectors.md V36: a pass that finds every cache entry empty publishes no event and
delivers nothing, whatever the devices answer; in its 84 steps it asks every device line once, in the fixed order, and
logs nothing between `PASS_START` and `PASS_END` but failed reads. -/
def Obligations.FirstPassPublishesNothing : Prop :=
  ∀ (s : State) (more : List Input), s.stack = [] → s.tickPending = true →
    (∀ i : Fin 64, s.dcache[i] = .empty) → (∀ i : Fin 18, s.acache[i] = .empty) →
    s.inputs = List.replicate 84 .seq ++ more →
    ∃ t mid, steps 84 s = .next t ∧ t.stack = [] ∧ t.tickPending = false ∧ t.inputs = more ∧
      t.registry = s.registry ∧ t.deliv = s.deliv ∧ t.resp = s.resp ∧
      t.log = s.log ++ passStartRecord :: mid ++ [passEndRecord] ∧
      (∀ r ∈ mid, ∃ (sp : Space) (a : Addr), r = conditionRecord (.busFail sp a 0)) ∧
      t.devhist.map targetOf = s.devhist.map targetOf ++ passTargets s.cfg ∧
      t.dcache[46] = .held 0 ∧ t.dcache[47] = .held 0

/-- R155, R145: the edge property over two passes' looks at one address, whatever happened in between to the rest of
the state: a good look leaves the level held, and the next good look that differs queues exactly one edge event and
one `DigitalChange`, one that agrees queues nothing. -/
def Obligations.ConsecutiveLooksQueueTheChange : Prop :=
  ∀ (s t u v : State) (i : Fin 64) (d : Device) (idx : Nat) (x y : Bit) (rest rest' : List Frame)
    (more more' : List Input),
    routeD (digitalAddr i) = .dev d idx →
    s.stack = .pass ⟨.digital i, []⟩ :: rest → s.inputs = .seq :: more → levelOf (nextDraw s) = .ok x →
    step s = .next t →
    u.dcache[i] = t.dcache[i] → u.stack = .pass ⟨.digital i, []⟩ :: rest' → u.inputs = .seq :: more' →
    levelOf (nextDraw u) = .ok y → step u = .next v →
    v.stack = .pass ⟨nextCursor (.digital i),
      if x = y then [] else [⟨⟨if y = u.cfg.risingLevel then 0 else 1, digitalAddr i⟩, y.setWidth 16⟩,
        ⟨⟨2, digitalAddr i⟩, y.setWidth 16⟩]⟩ :: rest'
end

