-- ==== Sys2Proof/Laws/State.lean ====
section
/-! SUPPORT. What each update of the state leaves in each field, so that no later proof unfolds a record update. -/

namespace Sys2Proof.Machine

/-! ### setDcache -/

@[simp] theorem setDcache_cfg (i : Fin 64) (e : CacheEntry 1) (s : State) : (setDcache i e s).cfg = s.cfg := rfl
@[simp] theorem setDcache_dcache (i : Fin 64) (e : CacheEntry 1) (s : State) :
    (setDcache i e s).dcache = s.dcache.set i.val e i.isLt :=
    rfl
@[simp] theorem setDcache_acache (i : Fin 64) (e : CacheEntry 1) (s : State) : (setDcache i e s).acache = s.acache :=
    rfl
@[simp] theorem setDcache_registry (i : Fin 64) (e : CacheEntry 1) (s : State) :
    (setDcache i e s).registry = s.registry :=
    rfl
@[simp] theorem setDcache_tickPending (i : Fin 64) (e : CacheEntry 1) (s : State) :
    (setDcache i e s).tickPending = s.tickPending :=
    rfl
@[simp] theorem setDcache_stack (i : Fin 64) (e : CacheEntry 1) (s : State) : (setDcache i e s).stack = s.stack := rfl
@[simp] theorem setDcache_resp (i : Fin 64) (e : CacheEntry 1) (s : State) : (setDcache i e s).resp = s.resp := rfl
@[simp] theorem setDcache_deliv (i : Fin 64) (e : CacheEntry 1) (s : State) : (setDcache i e s).deliv = s.deliv := rfl
@[simp] theorem setDcache_log (i : Fin 64) (e : CacheEntry 1) (s : State) : (setDcache i e s).log = s.log := rfl
@[simp] theorem setDcache_devhist (i : Fin 64) (e : CacheEntry 1) (s : State) :
    (setDcache i e s).devhist = s.devhist :=
    rfl
@[simp] theorem setDcache_inputs (i : Fin 64) (e : CacheEntry 1) (s : State) : (setDcache i e s).inputs = s.inputs :=
    rfl
@[simp] theorem setDcache_inputCount (i : Fin 64) (e : CacheEntry 1) (s : State) :
    (setDcache i e s).inputCount = s.inputCount :=
    rfl
@[simp] theorem setDcache_draws (i : Fin 64) (e : CacheEntry 1) (s : State) : (setDcache i e s).draws = s.draws := rfl
@[simp] theorem setDcache_drawCount (i : Fin 64) (e : CacheEntry 1) (s : State) :
    (setDcache i e s).drawCount = s.drawCount :=
    rfl

/-! ### setAcache -/

@[simp] theorem setAcache_cfg (i : Fin 18) (e : CacheEntry 16) (s : State) : (setAcache i e s).cfg = s.cfg := rfl
@[simp] theorem setAcache_dcache (i : Fin 18) (e : CacheEntry 16) (s : State) : (setAcache i e s).dcache = s.dcache :=
    rfl
@[simp] theorem setAcache_acache (i : Fin 18) (e : CacheEntry 16) (s : State) :
    (setAcache i e s).acache = s.acache.set i.val e i.isLt :=
    rfl
@[simp] theorem setAcache_registry (i : Fin 18) (e : CacheEntry 16) (s : State) :
    (setAcache i e s).registry = s.registry :=
    rfl
@[simp] theorem setAcache_tickPending (i : Fin 18) (e : CacheEntry 16) (s : State) :
    (setAcache i e s).tickPending = s.tickPending :=
    rfl
@[simp] theorem setAcache_stack (i : Fin 18) (e : CacheEntry 16) (s : State) : (setAcache i e s).stack = s.stack :=
    rfl
@[simp] theorem setAcache_resp (i : Fin 18) (e : CacheEntry 16) (s : State) : (setAcache i e s).resp = s.resp := rfl
@[simp] theorem setAcache_deliv (i : Fin 18) (e : CacheEntry 16) (s : State) : (setAcache i e s).deliv = s.deliv :=
    rfl
@[simp] theorem setAcache_log (i : Fin 18) (e : CacheEntry 16) (s : State) : (setAcache i e s).log = s.log := rfl
@[simp] theorem setAcache_devhist (i : Fin 18) (e : CacheEntry 16) (s : State) :
    (setAcache i e s).devhist = s.devhist :=
    rfl
@[simp] theorem setAcache_inputs (i : Fin 18) (e : CacheEntry 16) (s : State) : (setAcache i e s).inputs = s.inputs :=
    rfl
@[simp] theorem setAcache_inputCount (i : Fin 18) (e : CacheEntry 16) (s : State) :
    (setAcache i e s).inputCount = s.inputCount :=
    rfl
@[simp] theorem setAcache_draws (i : Fin 18) (e : CacheEntry 16) (s : State) : (setAcache i e s).draws = s.draws :=
    rfl
@[simp] theorem setAcache_drawCount (i : Fin 18) (e : CacheEntry 16) (s : State) :
    (setAcache i e s).drawCount = s.drawCount :=
    rfl

/-! ### setRegistry -/

@[simp] theorem setRegistry_cfg (r : List SubEntry) (s : State) : (setRegistry r s).cfg = s.cfg := rfl
@[simp] theorem setRegistry_dcache (r : List SubEntry) (s : State) : (setRegistry r s).dcache = s.dcache := rfl
@[simp] theorem setRegistry_acache (r : List SubEntry) (s : State) : (setRegistry r s).acache = s.acache := rfl
@[simp] theorem setRegistry_registry (r : List SubEntry) (s : State) : (setRegistry r s).registry = r := rfl
@[simp] theorem setRegistry_tickPending (r : List SubEntry) (s : State) :
    (setRegistry r s).tickPending = s.tickPending :=
    rfl
@[simp] theorem setRegistry_stack (r : List SubEntry) (s : State) : (setRegistry r s).stack = s.stack := rfl
@[simp] theorem setRegistry_resp (r : List SubEntry) (s : State) : (setRegistry r s).resp = s.resp := rfl
@[simp] theorem setRegistry_deliv (r : List SubEntry) (s : State) : (setRegistry r s).deliv = s.deliv := rfl
@[simp] theorem setRegistry_log (r : List SubEntry) (s : State) : (setRegistry r s).log = s.log := rfl
@[simp] theorem setRegistry_devhist (r : List SubEntry) (s : State) : (setRegistry r s).devhist = s.devhist := rfl
@[simp] theorem setRegistry_inputs (r : List SubEntry) (s : State) : (setRegistry r s).inputs = s.inputs := rfl
@[simp] theorem setRegistry_inputCount (r : List SubEntry) (s : State) :
    (setRegistry r s).inputCount = s.inputCount :=
    rfl
@[simp] theorem setRegistry_draws (r : List SubEntry) (s : State) : (setRegistry r s).draws = s.draws := rfl
@[simp] theorem setRegistry_drawCount (r : List SubEntry) (s : State) : (setRegistry r s).drawCount = s.drawCount :=
    rfl

/-! ### setTickPending -/

@[simp] theorem setTickPending_cfg (b : Bool) (s : State) : (setTickPending b s).cfg = s.cfg := rfl
@[simp] theorem setTickPending_dcache (b : Bool) (s : State) : (setTickPending b s).dcache = s.dcache := rfl
@[simp] theorem setTickPending_acache (b : Bool) (s : State) : (setTickPending b s).acache = s.acache := rfl
@[simp] theorem setTickPending_registry (b : Bool) (s : State) : (setTickPending b s).registry = s.registry := rfl
@[simp] theorem setTickPending_tickPending (b : Bool) (s : State) : (setTickPending b s).tickPending = b := rfl
@[simp] theorem setTickPending_stack (b : Bool) (s : State) : (setTickPending b s).stack = s.stack := rfl
@[simp] theorem setTickPending_resp (b : Bool) (s : State) : (setTickPending b s).resp = s.resp := rfl
@[simp] theorem setTickPending_deliv (b : Bool) (s : State) : (setTickPending b s).deliv = s.deliv := rfl
@[simp] theorem setTickPending_log (b : Bool) (s : State) : (setTickPending b s).log = s.log := rfl
@[simp] theorem setTickPending_devhist (b : Bool) (s : State) : (setTickPending b s).devhist = s.devhist := rfl
@[simp] theorem setTickPending_inputs (b : Bool) (s : State) : (setTickPending b s).inputs = s.inputs := rfl
@[simp] theorem setTickPending_inputCount (b : Bool) (s : State) : (setTickPending b s).inputCount = s.inputCount :=
    rfl
@[simp] theorem setTickPending_draws (b : Bool) (s : State) : (setTickPending b s).draws = s.draws := rfl
@[simp] theorem setTickPending_drawCount (b : Bool) (s : State) : (setTickPending b s).drawCount = s.drawCount := rfl

/-! ### setStack -/

@[simp] theorem setStack_cfg (st : List Frame) (s : State) : (setStack st s).cfg = s.cfg := rfl
@[simp] theorem setStack_dcache (st : List Frame) (s : State) : (setStack st s).dcache = s.dcache := rfl
@[simp] theorem setStack_acache (st : List Frame) (s : State) : (setStack st s).acache = s.acache := rfl
@[simp] theorem setStack_registry (st : List Frame) (s : State) : (setStack st s).registry = s.registry := rfl
@[simp] theorem setStack_tickPending (st : List Frame) (s : State) : (setStack st s).tickPending = s.tickPending :=
    rfl
@[simp] theorem setStack_stack (st : List Frame) (s : State) : (setStack st s).stack = st := rfl
@[simp] theorem setStack_resp (st : List Frame) (s : State) : (setStack st s).resp = s.resp := rfl
@[simp] theorem setStack_deliv (st : List Frame) (s : State) : (setStack st s).deliv = s.deliv := rfl
@[simp] theorem setStack_log (st : List Frame) (s : State) : (setStack st s).log = s.log := rfl
@[simp] theorem setStack_devhist (st : List Frame) (s : State) : (setStack st s).devhist = s.devhist := rfl
@[simp] theorem setStack_inputs (st : List Frame) (s : State) : (setStack st s).inputs = s.inputs := rfl
@[simp] theorem setStack_inputCount (st : List Frame) (s : State) : (setStack st s).inputCount = s.inputCount := rfl
@[simp] theorem setStack_draws (st : List Frame) (s : State) : (setStack st s).draws = s.draws := rfl
@[simp] theorem setStack_drawCount (st : List Frame) (s : State) : (setStack st s).drawCount = s.drawCount := rfl

/-! ### emitResp -/

@[simp] theorem emitResp_cfg (w : Word) (s : State) : (emitResp w s).cfg = s.cfg := rfl
@[simp] theorem emitResp_dcache (w : Word) (s : State) : (emitResp w s).dcache = s.dcache := rfl
@[simp] theorem emitResp_acache (w : Word) (s : State) : (emitResp w s).acache = s.acache := rfl
@[simp] theorem emitResp_registry (w : Word) (s : State) : (emitResp w s).registry = s.registry := rfl
@[simp] theorem emitResp_tickPending (w : Word) (s : State) : (emitResp w s).tickPending = s.tickPending := rfl
@[simp] theorem emitResp_stack (w : Word) (s : State) : (emitResp w s).stack = s.stack := rfl
@[simp] theorem emitResp_resp (w : Word) (s : State) : (emitResp w s).resp = s.resp ++ [w] := rfl
@[simp] theorem emitResp_deliv (w : Word) (s : State) : (emitResp w s).deliv = s.deliv := rfl
@[simp] theorem emitResp_log (w : Word) (s : State) : (emitResp w s).log = s.log := rfl
@[simp] theorem emitResp_devhist (w : Word) (s : State) : (emitResp w s).devhist = s.devhist := rfl
@[simp] theorem emitResp_inputs (w : Word) (s : State) : (emitResp w s).inputs = s.inputs := rfl
@[simp] theorem emitResp_inputCount (w : Word) (s : State) : (emitResp w s).inputCount = s.inputCount := rfl
@[simp] theorem emitResp_draws (w : Word) (s : State) : (emitResp w s).draws = s.draws := rfl
@[simp] theorem emitResp_drawCount (w : Word) (s : State) : (emitResp w s).drawCount = s.drawCount := rfl

/-! ### emitDeliv -/

@[simp] theorem emitDeliv_cfg (r : BitVec 48) (s : State) : (emitDeliv r s).cfg = s.cfg := rfl
@[simp] theorem emitDeliv_dcache (r : BitVec 48) (s : State) : (emitDeliv r s).dcache = s.dcache := rfl
@[simp] theorem emitDeliv_acache (r : BitVec 48) (s : State) : (emitDeliv r s).acache = s.acache := rfl
@[simp] theorem emitDeliv_registry (r : BitVec 48) (s : State) : (emitDeliv r s).registry = s.registry := rfl
@[simp] theorem emitDeliv_tickPending (r : BitVec 48) (s : State) : (emitDeliv r s).tickPending = s.tickPending := rfl
@[simp] theorem emitDeliv_stack (r : BitVec 48) (s : State) : (emitDeliv r s).stack = s.stack := rfl
@[simp] theorem emitDeliv_resp (r : BitVec 48) (s : State) : (emitDeliv r s).resp = s.resp := rfl
@[simp] theorem emitDeliv_deliv (r : BitVec 48) (s : State) : (emitDeliv r s).deliv = s.deliv ++ [r] := rfl
@[simp] theorem emitDeliv_log (r : BitVec 48) (s : State) : (emitDeliv r s).log = s.log := rfl
@[simp] theorem emitDeliv_devhist (r : BitVec 48) (s : State) : (emitDeliv r s).devhist = s.devhist := rfl
@[simp] theorem emitDeliv_inputs (r : BitVec 48) (s : State) : (emitDeliv r s).inputs = s.inputs := rfl
@[simp] theorem emitDeliv_inputCount (r : BitVec 48) (s : State) : (emitDeliv r s).inputCount = s.inputCount := rfl
@[simp] theorem emitDeliv_draws (r : BitVec 48) (s : State) : (emitDeliv r s).draws = s.draws := rfl
@[simp] theorem emitDeliv_drawCount (r : BitVec 48) (s : State) : (emitDeliv r s).drawCount = s.drawCount := rfl

/-! ### emitLog -/

@[simp] theorem emitLog_cfg (r : BitVec 64) (s : State) : (emitLog r s).cfg = s.cfg := rfl
@[simp] theorem emitLog_dcache (r : BitVec 64) (s : State) : (emitLog r s).dcache = s.dcache := rfl
@[simp] theorem emitLog_acache (r : BitVec 64) (s : State) : (emitLog r s).acache = s.acache := rfl
@[simp] theorem emitLog_registry (r : BitVec 64) (s : State) : (emitLog r s).registry = s.registry := rfl
@[simp] theorem emitLog_tickPending (r : BitVec 64) (s : State) : (emitLog r s).tickPending = s.tickPending := rfl
@[simp] theorem emitLog_stack (r : BitVec 64) (s : State) : (emitLog r s).stack = s.stack := rfl
@[simp] theorem emitLog_resp (r : BitVec 64) (s : State) : (emitLog r s).resp = s.resp := rfl
@[simp] theorem emitLog_deliv (r : BitVec 64) (s : State) : (emitLog r s).deliv = s.deliv := rfl
@[simp] theorem emitLog_log (r : BitVec 64) (s : State) : (emitLog r s).log = s.log ++ [r] := rfl
@[simp] theorem emitLog_devhist (r : BitVec 64) (s : State) : (emitLog r s).devhist = s.devhist := rfl
@[simp] theorem emitLog_inputs (r : BitVec 64) (s : State) : (emitLog r s).inputs = s.inputs := rfl
@[simp] theorem emitLog_inputCount (r : BitVec 64) (s : State) : (emitLog r s).inputCount = s.inputCount := rfl
@[simp] theorem emitLog_draws (r : BitVec 64) (s : State) : (emitLog r s).draws = s.draws := rfl
@[simp] theorem emitLog_drawCount (r : BitVec 64) (s : State) : (emitLog r s).drawCount = s.drawCount := rfl

/-! ### emitDev -/

@[simp] theorem emitDev_cfg (rs : List DevRecord) (s : State) : (emitDev rs s).cfg = s.cfg := rfl
@[simp] theorem emitDev_dcache (rs : List DevRecord) (s : State) : (emitDev rs s).dcache = s.dcache := rfl
@[simp] theorem emitDev_acache (rs : List DevRecord) (s : State) : (emitDev rs s).acache = s.acache := rfl
@[simp] theorem emitDev_registry (rs : List DevRecord) (s : State) : (emitDev rs s).registry = s.registry := rfl
@[simp] theorem emitDev_tickPending (rs : List DevRecord) (s : State) : (emitDev rs s).tickPending = s.tickPending :=
    rfl
@[simp] theorem emitDev_stack (rs : List DevRecord) (s : State) : (emitDev rs s).stack = s.stack := rfl
@[simp] theorem emitDev_resp (rs : List DevRecord) (s : State) : (emitDev rs s).resp = s.resp := rfl
@[simp] theorem emitDev_deliv (rs : List DevRecord) (s : State) : (emitDev rs s).deliv = s.deliv := rfl
@[simp] theorem emitDev_log (rs : List DevRecord) (s : State) : (emitDev rs s).log = s.log := rfl
@[simp] theorem emitDev_devhist (rs : List DevRecord) (s : State) : (emitDev rs s).devhist = s.devhist ++ rs := rfl
@[simp] theorem emitDev_inputs (rs : List DevRecord) (s : State) : (emitDev rs s).inputs = s.inputs := rfl
@[simp] theorem emitDev_inputCount (rs : List DevRecord) (s : State) : (emitDev rs s).inputCount = s.inputCount := rfl
@[simp] theorem emitDev_draws (rs : List DevRecord) (s : State) : (emitDev rs s).draws = s.draws := rfl
@[simp] theorem emitDev_drawCount (rs : List DevRecord) (s : State) : (emitDev rs s).drawCount = s.drawCount := rfl

/-! ### dropDraw -/

@[simp] theorem dropDraw_cfg (s : State) : (dropDraw s).cfg = s.cfg := rfl
@[simp] theorem dropDraw_dcache (s : State) : (dropDraw s).dcache = s.dcache := rfl
@[simp] theorem dropDraw_acache (s : State) : (dropDraw s).acache = s.acache := rfl
@[simp] theorem dropDraw_registry (s : State) : (dropDraw s).registry = s.registry := rfl
@[simp] theorem dropDraw_tickPending (s : State) : (dropDraw s).tickPending = s.tickPending := rfl
@[simp] theorem dropDraw_stack (s : State) : (dropDraw s).stack = s.stack := rfl
@[simp] theorem dropDraw_resp (s : State) : (dropDraw s).resp = s.resp := rfl
@[simp] theorem dropDraw_deliv (s : State) : (dropDraw s).deliv = s.deliv := rfl
@[simp] theorem dropDraw_log (s : State) : (dropDraw s).log = s.log := rfl
@[simp] theorem dropDraw_devhist (s : State) : (dropDraw s).devhist = s.devhist := rfl
@[simp] theorem dropDraw_inputs (s : State) : (dropDraw s).inputs = s.inputs := rfl
@[simp] theorem dropDraw_inputCount (s : State) : (dropDraw s).inputCount = s.inputCount := rfl
@[simp] theorem dropDraw_draws (s : State) : (dropDraw s).draws = s.draws.tail := rfl
@[simp] theorem dropDraw_drawCount (s : State) :
    (dropDraw s).drawCount = if s.draws.isEmpty then s.drawCount + 1 else s.drawCount :=
    rfl

/-! ### dropInput -/

@[simp] theorem dropInput_cfg (s : State) : (dropInput s).cfg = s.cfg := rfl
@[simp] theorem dropInput_dcache (s : State) : (dropInput s).dcache = s.dcache := rfl
@[simp] theorem dropInput_acache (s : State) : (dropInput s).acache = s.acache := rfl
@[simp] theorem dropInput_registry (s : State) : (dropInput s).registry = s.registry := rfl
@[simp] theorem dropInput_tickPending (s : State) : (dropInput s).tickPending = s.tickPending := rfl
@[simp] theorem dropInput_stack (s : State) : (dropInput s).stack = s.stack := rfl
@[simp] theorem dropInput_resp (s : State) : (dropInput s).resp = s.resp := rfl
@[simp] theorem dropInput_deliv (s : State) : (dropInput s).deliv = s.deliv := rfl
@[simp] theorem dropInput_log (s : State) : (dropInput s).log = s.log := rfl
@[simp] theorem dropInput_devhist (s : State) : (dropInput s).devhist = s.devhist := rfl
@[simp] theorem dropInput_inputs (s : State) : (dropInput s).inputs = s.inputs.tail := rfl
@[simp] theorem dropInput_inputCount (s : State) :
    (dropInput s).inputCount = if s.inputs.isEmpty then s.inputCount + 1 else s.inputCount :=
    rfl
@[simp] theorem dropInput_draws (s : State) : (dropInput s).draws = s.draws := rfl
@[simp] theorem dropInput_drawCount (s : State) : (dropInput s).drawCount = s.drawCount := rfl

/-! ### holdInput -/

@[simp] theorem holdInput_cfg (s : State) : (holdInput s).cfg = s.cfg := rfl
@[simp] theorem holdInput_dcache (s : State) : (holdInput s).dcache = s.dcache := rfl
@[simp] theorem holdInput_acache (s : State) : (holdInput s).acache = s.acache := rfl
@[simp] theorem holdInput_registry (s : State) : (holdInput s).registry = s.registry := rfl
@[simp] theorem holdInput_tickPending (s : State) : (holdInput s).tickPending = s.tickPending := rfl
@[simp] theorem holdInput_stack (s : State) : (holdInput s).stack = s.stack := rfl
@[simp] theorem holdInput_resp (s : State) : (holdInput s).resp = s.resp := rfl
@[simp] theorem holdInput_deliv (s : State) : (holdInput s).deliv = s.deliv := rfl
@[simp] theorem holdInput_log (s : State) : (holdInput s).log = s.log := rfl
@[simp] theorem holdInput_devhist (s : State) : (holdInput s).devhist = s.devhist := rfl
@[simp] theorem holdInput_inputs (s : State) :
    (holdInput s).inputs = if s.inputs.isEmpty then [nextInput s] else s.inputs :=
    rfl
@[simp] theorem holdInput_inputCount (s : State) :
    (holdInput s).inputCount = if s.inputs.isEmpty then s.inputCount + 1 else s.inputCount :=
    rfl
@[simp] theorem holdInput_draws (s : State) : (holdInput s).draws = s.draws := rfl
@[simp] theorem holdInput_drawCount (s : State) : (holdInput s).drawCount = s.drawCount := rfl

/-! ### resetBlock -/

@[simp] theorem resetBlock_cfg (s : State) : (resetBlock s).cfg = s.cfg := rfl
@[simp] theorem resetBlock_dcache (s : State) : (resetBlock s).dcache = Vector.replicate 64 .empty := rfl
@[simp] theorem resetBlock_acache (s : State) : (resetBlock s).acache = Vector.replicate 18 .empty := rfl
@[simp] theorem resetBlock_registry (s : State) : (resetBlock s).registry = [] := rfl
@[simp] theorem resetBlock_tickPending (s : State) : (resetBlock s).tickPending = false := rfl
@[simp] theorem resetBlock_stack (s : State) : (resetBlock s).stack = [] := rfl
@[simp] theorem resetBlock_resp (s : State) : (resetBlock s).resp = s.resp := rfl
@[simp] theorem resetBlock_deliv (s : State) : (resetBlock s).deliv = s.deliv := rfl
@[simp] theorem resetBlock_log (s : State) : (resetBlock s).log = s.log := rfl
@[simp] theorem resetBlock_devhist (s : State) : (resetBlock s).devhist = s.devhist := rfl
@[simp] theorem resetBlock_inputs (s : State) : (resetBlock s).inputs = s.inputs := rfl
@[simp] theorem resetBlock_inputCount (s : State) : (resetBlock s).inputCount = s.inputCount := rfl
@[simp] theorem resetBlock_draws (s : State) : (resetBlock s).draws = s.draws := rfl
@[simp] theorem resetBlock_drawCount (s : State) : (resetBlock s).drawCount = s.drawCount := rfl

/-! ### respond -/

@[simp] theorem respond_cfg (st : Status) (count : BitVec 12) (data : Value) (s : State) :
    (respond st count data s).cfg = s.cfg :=
    rfl
@[simp] theorem respond_dcache (st : Status) (count : BitVec 12) (data : Value) (s : State) :
    (respond st count data s).dcache = s.dcache :=
    rfl
@[simp] theorem respond_acache (st : Status) (count : BitVec 12) (data : Value) (s : State) :
    (respond st count data s).acache = s.acache :=
    rfl
@[simp] theorem respond_registry (st : Status) (count : BitVec 12) (data : Value) (s : State) :
    (respond st count data s).registry = s.registry :=
    rfl
@[simp] theorem respond_tickPending (st : Status) (count : BitVec 12) (data : Value) (s : State) :
    (respond st count data s).tickPending = s.tickPending :=
    rfl
@[simp] theorem respond_stack (st : Status) (count : BitVec 12) (data : Value) (s : State) :
    (respond st count data s).stack = s.stack :=
    rfl
@[simp] theorem respond_resp (st : Status) (count : BitVec 12) (data : Value) (s : State) :
    (respond st count data s).resp = s.resp ++ [packResponse st count data] :=
    rfl
@[simp] theorem respond_deliv (st : Status) (count : BitVec 12) (data : Value) (s : State) :
    (respond st count data s).deliv = s.deliv :=
    rfl
@[simp] theorem respond_log (st : Status) (count : BitVec 12) (data : Value) (s : State) :
    (respond st count data s).log = s.log :=
    rfl
@[simp] theorem respond_devhist (st : Status) (count : BitVec 12) (data : Value) (s : State) :
    (respond st count data s).devhist = s.devhist :=
    rfl
@[simp] theorem respond_inputs (st : Status) (count : BitVec 12) (data : Value) (s : State) :
    (respond st count data s).inputs = s.inputs :=
    rfl
@[simp] theorem respond_inputCount (st : Status) (count : BitVec 12) (data : Value) (s : State) :
    (respond st count data s).inputCount = s.inputCount :=
    rfl
@[simp] theorem respond_draws (st : Status) (count : BitVec 12) (data : Value) (s : State) :
    (respond st count data s).draws = s.draws :=
    rfl
@[simp] theorem respond_drawCount (st : Status) (count : BitVec 12) (data : Value) (s : State) :
    (respond st count data s).drawCount = s.drawCount :=
    rfl

end Sys2Proof.Machine
end

