-- ==== Sys2Proof/Laws/Ops.lean ====
section
/-! SUPPORT. What each shared operation can do, said once: raising a condition, the device primitives, the snapshot,
publishing and the tick. -/

namespace Sys2Proof.Machine

/-! ### raise: nothing but the log and, in a command, the response (60_exceptions.md R240) -/

/-- The whole effect of a raise (00_scope.md R11). -/
theorem raise_eq (b : Bool) (c : Condition) (s : State) :
    raise b c s =
      { s with
        log := s.log ++ [conditionRecord c]
        resp := s.resp ++ (if b then (conditionStatus c).toList.map (fun st => packResponse st 0 0) else []) } := by
  unfold raise
  cases b <;> cases h : conditionStatus c <;>
    simp [respond, emitResp, emitLog]

/-! ### Device accesses: one record, or one select and one read, and one draw (20_memory.md R59, R60) -/

theorem devRead_eq (d : Device) (idx : Nat) (s : State) :
    devRead d idx s =
      { dropDraw s with devhist := s.devhist ++ [.devRead d idx (levelOf (nextDraw s))] } := rfl

theorem devWrite_eq (d : Device) (idx : Nat) (b : Bit) (s : State) :
    devWrite d idx b s =
      { dropDraw s with devhist := s.devhist ++ [.devWrite d idx b (doneOf (nextDraw s))] } := rfl

theorem devMode_eq (d : Device) (idx : Nat) (m : Mode) (s : State) :
    devMode d idx m s =
      { dropDraw s with devhist := s.devhist ++ [.devMode d idx m (doneOf (nextDraw s))] } := rfl

theorem adcRead_eq (c : Nat) (s : State) :
    adcRead c s =
      { dropDraw s with devhist := s.devhist ++ [.adcRead c (sampleOf s.cfg (nextDraw s))] } := rfl

/-- A channel the multiplexer has: selected, then read (R56). -/
theorem muxRead_of_lt {ch : Channel} {s : State} (h : ch.toNat < s.cfg.muxChannels) :
    muxRead ch s =
      { dropDraw s with
        devhist := s.devhist ++ [.muxSelect ch, .muxRead ch (sampleOf s.cfg (nextDraw s))] } := by
  simp [muxRead, Nat.not_le.mpr h, emitDev]

/-- A channel it does not have: no access (R56). -/
theorem muxRead_of_le {ch : Channel} {s : State} (h : s.cfg.muxChannels ≤ ch.toNat) : muxRead ch s = s := by
  simp [muxRead, h]

theorem muxAnswer_of_lt {ch : Channel} {s : State} (h : ch.toNat < s.cfg.muxChannels) :
    muxAnswer ch s = sampleOf s.cfg (nextDraw s) := by
  simp [muxAnswer, Nat.not_le.mpr h]

theorem muxAnswer_of_le {ch : Channel} {s : State} (h : s.cfg.muxChannels ≤ ch.toNat) :
    muxAnswer ch s = .ok 0 := by
  simp [muxAnswer, h]

/-- A multiplexer read changes nothing but `DEVHIST` and the draws. -/
theorem muxRead_frame (ch : Channel) (s : State) :
    muxRead ch s =
      { s with
        devhist := (muxRead ch s).devhist
        draws := (muxRead ch s).draws
        drawCount := (muxRead ch s).drawCount } := by
  unfold muxRead
  split <;> rfl

/-- A good sample has `ADC_BITS` bits (R59, 10_state.md R25). -/
theorem sampleOf_lt {cfg : Params} {d : Draw} {v : Value} (h : sampleOf cfg d = .ok v) :
    v.toNat < 2 ^ cfg.adcBits := by
  unfold sampleOf at h
  split at h
  · cases h
    exact Nat.lt_of_le_of_lt (Nat.mod_le _ _) (Nat.mod_lt _ (Nat.two_pow_pos _))
  · cases h

/-- The multiplexer's answers too. -/
theorem muxAnswer_lt {ch : Channel} {s : State} {v : Value} (h : muxAnswer ch s = .ok v) :
    v.toNat < 2 ^ s.cfg.adcBits := by
  unfold muxAnswer at h
  split at h
  · cases h
    exact Nat.two_pow_pos _
  · exact sampleOf_lt h

/-! ### The registry (10_state.md R27, R28) -/

/-- A listener is in the snapshot exactly when its pair is in the registry. -/
theorem mem_snapshot {k : Key} {l : Listener} {s : State} :
    l ∈ snapshot k s ↔ (⟨k, l⟩ : SubEntry) ∈ s.registry := by
  simp only [snapshot, List.mem_map, List.mem_filter, beq_iff_eq]
  constructor
  · rintro ⟨⟨k', l'⟩, ⟨hm, rfl⟩, rfl⟩
    exact hm
  · exact fun h => ⟨⟨k, l⟩, ⟨h, rfl⟩, rfl⟩

/-- A registry without repeats gives snapshots without repeats. -/
theorem snapshot_nodup {k : Key} {s : State} (h : s.registry.Nodup) : (snapshot k s).Nodup := by
  refine List.Nodup.map_on ?_ (h.filter _)
  rintro ⟨k1, l1⟩ h1 ⟨k2, l2⟩ h2 (rfl : l1 = l2)
  simp only [List.mem_filter, beq_iff_eq] at h1 h2
  rw [h1.2, h2.2]

theorem snapshot_length_le (k : Key) (s : State) : (snapshot k s).length ≤ s.registry.length := by
  simpa [snapshot] using List.length_filter_le _ s.registry

/-- The snapshot reads the registry and nothing else. -/
theorem snapshot_congr {k : Key} {s t : State} (h : t.registry = s.registry) : snapshot k t = snapshot k s := by
  simp [snapshot, h]

/-! ### Publishing and the tick -/

/-- The whole effect of a publish (42_event_bus.md R183). -/
theorem publish_eq (k : Key) (v : Value) (o : Origin) (s : State) :
    publish k v o s =
      { s with
        log := s.log ++ [publishRecord k v (snapshot k s).length]
        stack := .disp ⟨k, v, snapshot k s, 0, false, o⟩ :: s.stack } := rfl

/-- The whole effect of a tick (41_sampling.md R141). -/
theorem tickIn_eq (s : State) :
    tickIn s =
      { s with
        tickPending := true
        log := s.log ++ (if s.tickPending then [conditionRecord .tickOverrun] else []) } := by
  unfold tickIn
  cases h : s.tickPending <;> simp [raise_eq, setTickPending]

/-! ### Routing (20_memory.md R51, R52) -/

/-- The pass never meets an unrouted digital address (60_exceptions.md R231). -/
theorem routeD_digitalAddr_ne_outOfRange (i : Fin 64) : routeD (digitalAddr i) ≠ .outOfRange := by
  revert i; decide

/-- Nor an unrouted analog one. -/
theorem routeA_analogAddr_ne_outOfRange (i : Fin 18) : routeA (analogAddr i) ≠ .outOfRange := by
  revert i; decide

/-- The two reserved addresses of a pass are 47 and 48. -/
theorem routeD_digitalAddr_reserved (i : Fin 64) : routeD (digitalAddr i) = .reserved ↔ i = 46 ∨ i = 47 := by
  revert i; decide

end Sys2Proof.Machine
end

