-- ==== Sys2Proof/Laws/Sampling.lean ====
section
/-! SUPPORT. What a sample step does, said once for every entry and every answer (41_sampling.md R145, R149). -/

namespace Sys2Proof.Machine

/-- A digital sample changes its entry, the stack and the log, nothing else. -/
theorem digitalSampled_frame (i : Fin 64) (rest : List Frame) (r : Answer 1) (s : State) :
    digitalSampled i rest r s =
      { s with
        dcache := (digitalSampled i rest r s).dcache
        stack := (digitalSampled i rest r s).stack
        log := (digitalSampled i rest r s).log } := by
  unfold digitalSampled
  simp only
  repeat' split
  all_goals simp [raise_eq, setStack, setDcache]

/-- The entries of other addresses stay. -/
theorem digitalSampled_other {i j : Fin 64} (h : j ≠ i) (rest : List Frame) (r : Answer 1) (s : State) :
    (digitalSampled i rest r s).dcache[j] = s.dcache[j] := by
  have hv : i.val ≠ j.val := fun e => h (Fin.ext e.symm)
  unfold digitalSampled
  simp only
  repeat' split
  all_goals simp [raise_eq, hv]

/-- A failed read: the entry stays and the failure is logged. -/
theorem digitalSampled_fail (i : Fin 64) (rest : List Frame) (s : State) :
    digitalSampled i rest .fail s =
      { s with
        stack := .pass ⟨nextCursor (.digital i), []⟩ :: rest
        log := s.log ++ [conditionRecord (.busFail .digital (digitalAddr i) 0)] } := by
  simp [digitalSampled, raise_eq, setStack]

/-- A good read: the entry holds the level, and a change queues its events. -/
theorem digitalSampled_ok (i : Fin 64) (rest : List Frame) (b : Bit) (s : State) :
    digitalSampled i rest (.ok b) s =
      { s with
        dcache := s.dcache.set i.val (.held b) i.isLt
        stack := .pass ⟨nextCursor (.digital i),
          if s.dcache[i] = .empty ∨ s.dcache[i] = .held b then [] else digitalEvents s.cfg (digitalAddr i) b⟩ ::
            rest } := by
  simp only [digitalSampled]
  cases hc : s.dcache[i] with
  | empty => simp [setStack, setDcache]
  | held c =>
    by_cases hcb : c = b
    · subst hcb
      have hset : s.dcache.set i.val (.held c) i.isLt = s.dcache := by
        rw [← hc]
        exact Vector.set_getElem_self i.isLt
      simp [setStack, hset]
    · simp [setStack, setDcache, hcb]

/-- An analog sample changes its entry, the stack and the log, nothing else. -/
theorem analogSampled_frame (i : Fin 18) (rest : List Frame) (r : Answer 16) (s : State) :
    analogSampled i rest r s =
      { s with
        acache := (analogSampled i rest r s).acache
        stack := (analogSampled i rest r s).stack
        log := (analogSampled i rest r s).log } := by
  unfold analogSampled
  simp only
  repeat' split
  all_goals simp [raise_eq, setStack, setAcache]

/-- The entries of other addresses stay. -/
theorem analogSampled_other {i j : Fin 18} (h : j ≠ i) (rest : List Frame) (r : Answer 16) (s : State) :
    (analogSampled i rest r s).acache[j] = s.acache[j] := by
  have hv : i.val ≠ j.val := fun e => h (Fin.ext e.symm)
  unfold analogSampled
  simp only
  repeat' split
  all_goals simp [raise_eq, hv]

/-- A failed read: the entry stays and the failure is logged. -/
theorem analogSampled_fail (i : Fin 18) (rest : List Frame) (s : State) :
    analogSampled i rest .fail s =
      { s with
        stack := .pass ⟨nextCursor (.analog i), []⟩ :: rest
        log := s.log ++ [conditionRecord (.busFail .analog (analogAddr i) 0)] } := by
  simp [analogSampled, raise_eq, setStack]

/-- A good read: the entry holds the sample, and a change queues its event. -/
theorem analogSampled_ok (i : Fin 18) (rest : List Frame) (v : Value) (s : State) :
    analogSampled i rest (.ok v) s =
      { s with
        acache := s.acache.set i.val (.held v) i.isLt
        stack := .pass ⟨nextCursor (.analog i),
          if s.acache[i] = .empty ∨ s.acache[i] = .held v then [] else analogEvents (analogAddr i) v⟩ ::
            rest } := by
  simp only [analogSampled]
  cases hc : s.acache[i] with
  | empty => simp [setStack, setAcache]
  | held c =>
    by_cases hcb : c = v
    · subst hcb
      have hset : s.acache.set i.val (.held c) i.isLt = s.acache := by
        rw [← hc]
        exact Vector.set_getElem_self i.isLt
      simp [setStack, hset]
    · simp [setStack, setAcache, hcb]

/-- The route of the i-th analog address: channel i of the multiplexer, then the two ADC channels (20_memory.md
R52). -/
theorem routeA_analogAddr (i : Fin 18) :
    routeA (analogAddr i) = if i.val < 16 then .mux (BitVec.ofNat 4 i.val) else .adc (i.val - 15) := by
  revert i; decide

/-- A digital sample step is its answer's effect on a state that differs by one device access at most; a reserved
address answers 0 (R144). -/
theorem sampleDigital_cases (i : Fin 64) (rest : List Frame) (s : State) :
    ∃ r u, sampleDigital i rest s = digitalSampled i rest r u ∧
      u = { s with devhist := u.devhist, draws := u.draws, drawCount := u.drawCount } ∧
      (i = 46 ∨ i = 47 → r = .ok 0) := by
  unfold sampleDigital
  have hout := routeD_digitalAddr_ne_outOfRange i
  have hres := routeD_digitalAddr_reserved i
  cases h : routeD (digitalAddr i) with
  | dev d idx =>
    refine ⟨_, _, rfl, rfl, fun hi => ?_⟩
    have := hres.2 hi
    simp [h] at this
  | reserved => exact ⟨_, _, rfl, rfl, fun _ => rfl⟩
  | outOfRange => exact absurd h hout

/-- An analog sample step likewise; a good answer has `ADC_BITS` bits (R148). -/
theorem sampleAnalog_cases (i : Fin 18) (rest : List Frame) (s : State) :
    ∃ r u, sampleAnalog i rest s = analogSampled i rest r u ∧
      u = { s with devhist := u.devhist, draws := u.draws, drawCount := u.drawCount } ∧
      (∀ v, r = .ok v → v.toNat < 2 ^ s.cfg.adcBits) := by
  unfold sampleAnalog
  cases h : routeA (analogAddr i) with
  | mux ch => exact ⟨_, _, rfl, muxRead_frame _ _, fun v hv => muxAnswer_lt hv⟩
  | adc c => exact ⟨_, _, rfl, rfl, fun v hv => sampleOf_lt hv⟩
  | outOfRange => exact absurd h (routeA_analogAddr_ne_outOfRange i)

end Sys2Proof.Machine
end

