-- ==== Sys2Proof/Laws/Sequencer.lean ====
section
/-! SUPPORT. What one step is, by the environment's next move (00_scope.md R6), so that no proof unfolds it. -/

namespace Sys2Proof.Machine

theorem step_seq {s : State} {more : List Input} (h : s.inputs = .seq :: more) :
    step s = seqStep { s with inputs := more } := by
  simp [step, moveStep, nextInput, h, dropInput]

theorem step_tick {s : State} {more : List Input} (h : s.inputs = .tick :: more) :
    step s = .next (tickIn { s with inputs := more }) := by
  simp [step, moveStep, nextInput, h, dropInput]

theorem step_reset {s : State} {more : List Input} (h : s.inputs = .reset :: more) :
    step s = .next (resetBlock { s with inputs := more }) := by
  simp [step, moveStep, nextInput, h, dropInput]

/-- A word offered to an accepting block is taken. -/
theorem step_host {s : State} {w : Word} {more : List Input} (h : s.inputs = .host w :: more)
    (ha : accepting s = true) : step s = takeWord w { s with inputs := more } := by
  simp [step, moveStep, nextInput, h, ha, dropInput]

/-- A word offered to a block that is not accepting waits while the sequencer steps. -/
theorem step_host_waits {s : State} {w : Word} {more : List Input} (h : s.inputs = .host w :: more)
    (ha : accepting s = false) : step s = seqStep s := by
  simp [step, moveStep, nextInput, h, ha, holdInput]
  rw [← h]

/-- Every step is one of five: a tick, a reset, a word taken, or a sequencer step with the move used up or a word
waiting. -/
theorem step_cases (s : State) :
    (nextInput s = .tick ∧ step s = .next (tickIn (dropInput s))) ∨
    (nextInput s = .reset ∧ step s = .next (resetBlock (dropInput s))) ∨
    (∃ w, nextInput s = .host w ∧ accepting s = true ∧ step s = takeWord w (dropInput s)) ∨
    (nextInput s = .seq ∧ step s = seqStep (dropInput s)) ∨
    (∃ w, nextInput s = .host w ∧ accepting s = false ∧ step s = seqStep (holdInput s)) := by
  unfold step moveStep
  cases h : nextInput s with
  | seq => simp
  | tick => simp
  | reset => simp
  | host w => cases ha : accepting s <;> simp

/-- The sequencer's step on a pass frame is one of four (41_sampling.md R153). -/
theorem passStep_cases (p : PassFrame) (rest : List Frame) (s : State) :
    (∃ e more, p.pending = e :: more ∧ passStep p rest s = passPublish p.cursor e more rest s) ∨
    (∃ i, p = ⟨.digital i, []⟩ ∧ passStep p rest s = sampleDigital i rest s) ∨
    (∃ i, p = ⟨.analog i, []⟩ ∧ passStep p rest s = sampleAnalog i rest s) ∨
    (p = ⟨.finished, []⟩ ∧ passStep p rest s = passEnd rest s) := by
  obtain ⟨c, _ | ⟨e, more⟩⟩ := p
  · cases c <;> simp [passStep]
  · simp [passStep]

/-- The sequencer's step on a dispatch frame: wait, deliver, complete, or a frame R31 excludes. -/
theorem dispStep_cases (d : DispFrame) (rest : List Frame) (s : State) :
    (d.sent = true ∧ dispStep d rest s = .next s) ∨
    (d.sent = false ∧ ∃ l, d.snap[d.pos]? = some l ∧ dispStep d rest s = .next (deliver d l rest s)) ∨
    (d.sent = false ∧ d.pos = d.snap.length ∧ dispStep d rest s = .next (complete d rest s)) ∨
    (d.sent = false ∧ d.snap.length < d.pos ∧ dispStep d rest s = .fault .brokenFrame) := by
  unfold dispStep
  cases hs : d.sent with
  | true => simp
  | false =>
    cases hl : d.snap[d.pos]? with
    | some l => simp
    | none =>
      rw [List.getElem?_eq_none_iff] at hl
      by_cases he : d.pos = d.snap.length
      · simp [he]
      · simp [he]
        omega

end Sys2Proof.Machine
end

