-- ==== Sys2Proof/Laws/Commands.lean ====
section
/-! SUPPORT. What the parts of the commands and the dispatch steps can do, said once, and several steps in a row. -/

namespace Sys2Proof.Machine

/-- The end of an `AREAD` adds a response and perhaps a log record (40_direct_io.md R113). -/
theorem areadAnswer_frame (a : Addr) (r : Answer 16) (s : State) :
    areadAnswer a r s =
      { s with resp := (areadAnswer a r s).resp, log := (areadAnswer a r s).log } := by
  cases r <;> simp [areadAnswer, raise_eq, respond, emitResp]

/-- A completed dispatch pops its frame and perhaps responds (42_event_bus.md R186). -/
theorem complete_frame (d : DispFrame) (rest : List Frame) (s : State) :
    complete d rest s = { s with stack := rest, resp := (complete d rest s).resp } := by
  unfold complete
  split <;> simp [respond, emitResp, setStack]

/-- The four ends of an ACK (R185): clean, a fault, nothing awaited, a frame R31 excludes. -/
theorem execAck_cases (f : Bit) (s : State) :
    (∃ d rest, s.stack = .disp d :: rest ∧ d.sent = true ∧ f ≠ 1 ∧
      execAck f s = .next (setStack (.disp { d with pos := d.pos + 1, sent := false } :: rest) s)) ∨
    (∃ d rest l, s.stack = .disp d :: rest ∧ d.sent = true ∧ f = 1 ∧ d.snap[d.pos]? = some l ∧
      execAck f s = .next (setStack (.disp { d with pos := d.pos + 1, sent := false } :: rest)
        (raise true (.listenerFault d.key d.value l d.pos) s))) ∨
    ((∀ d rest, s.stack = .disp d :: rest → d.sent = false) ∧
      execAck f s = .next (raise true (.illegal (encode (.ack f))) s)) ∨
    (∃ d rest, s.stack = .disp d :: rest ∧ d.sent = true ∧ d.snap[d.pos]? = none ∧
      execAck f s = .fault .brokenFrame) := by
  unfold execAck
  cases hs : s.stack with
  | nil => exact .inr (.inr (.inl ⟨by simp, rfl⟩))
  | cons x rest =>
    cases x with
    | pass p => exact .inr (.inr (.inl ⟨by simp, rfl⟩))
    | disp d =>
      cases hd : d.sent with
      | false =>
        refine .inr (.inr (.inl ⟨?_, by simp [hd]⟩))
        rintro d' rest' h
        cases h
        exact hd
      | true =>
        by_cases hf : f = 1
        · cases hl : d.snap[d.pos]? with
          | some l => exact .inr (.inl ⟨d, rest, l, rfl, hd, hf, hl, by simp [hd, hf, hl]⟩)
          | none => exact .inr (.inr (.inr ⟨d, rest, rfl, hd, hl, by simp [hd, hf, hl]⟩))
        · exact .inl ⟨d, rest, rfl, hd, hf, by simp only [hd, if_true, if_neg hf]⟩

/-- After a next state the remaining steps go on from it. -/
theorem steps_of_next {n : Nat} {s t : State} (h : step s = .next t) : steps (n + 1) s = steps n t := by
  rw [steps, h]

end Sys2Proof.Machine
end

