-- ==== Sys2Proof/Laws/Decode.lean ====
section
/-! SUPPORT. The command word as a number and as its fields (30_encoding.md R80, R82). -/

namespace Sys2Proof

/-- A concatenation as a number: the high part stands above the low part's width (00_scope.md R8). -/
theorem append_toNat {n m : Nat} (x : BitVec n) (y : BitVec m) :
    (x ++ y).toNat = x.toNat * 2 ^ m + y.toNat := by
  rw [BitVec.toNat_append, ← Nat.shiftLeft_add_eq_or_of_lt y.isLt, Nat.shiftLeft_eq]

/-- A command word as a number. -/
theorem packWord_toNat (op : Opcode) (k : Kind) (a : Addr) (o : BitVec 16) :
    (packWord op k a o).toNat = op.toNat * 2 ^ 28 + k.toNat * 2 ^ 24 + a.toNat * 2 ^ 16 + o.toNat := by
  show (op ++ k ++ a ++ o).toNat = _
  simp only [append_toNat]
  omega

theorem opField_toNat (w : Word) : (opField w).toNat = w.toNat / 2 ^ 28 := by
  have := w.isLt
  simp only [opField, BitVec.extractLsb'_toNat, Nat.shiftRight_eq_div_pow]
  omega

theorem kindField_toNat (w : Word) : (kindField w).toNat = w.toNat / 2 ^ 24 % 16 := by
  simp only [kindField, BitVec.extractLsb'_toNat, Nat.shiftRight_eq_div_pow]

theorem addrField_toNat (w : Word) : (addrField w).toNat = w.toNat / 2 ^ 16 % 256 := by
  simp only [addrField, BitVec.extractLsb'_toNat, Nat.shiftRight_eq_div_pow]

theorem opdField_toNat (w : Word) : (opdField w).toNat = w.toNat % 65536 := by
  simp only [opdField, BitVec.extractLsb'_toNat, Nat.shiftRight_eq_div_pow]
  omega

theorem opField_packWord (op : Opcode) (k : Kind) (a : Addr) (o : BitVec 16) :
    opField (packWord op k a o) = op := by
  apply BitVec.eq_of_toNat_eq
  rw [opField_toNat, packWord_toNat]
  omega

theorem kindField_packWord (op : Opcode) (k : Kind) (a : Addr) (o : BitVec 16) :
    kindField (packWord op k a o) = k := by
  apply BitVec.eq_of_toNat_eq
  rw [kindField_toNat, packWord_toNat]
  omega

theorem addrField_packWord (op : Opcode) (k : Kind) (a : Addr) (o : BitVec 16) :
    addrField (packWord op k a o) = a := by
  apply BitVec.eq_of_toNat_eq
  rw [addrField_toNat, packWord_toNat]
  omega

theorem opdField_packWord (op : Opcode) (k : Kind) (a : Addr) (o : BitVec 16) :
    opdField (packWord op k a o) = o := by
  apply BitVec.eq_of_toNat_eq
  rw [opdField_toNat, packWord_toNat]
  omega

/-- A word is made of its four fields. -/
theorem packWord_fields (w : Word) : packWord (opField w) (kindField w) (addrField w) (opdField w) = w := by
  apply BitVec.eq_of_toNat_eq
  rw [packWord_toNat, opField_toNat, kindField_toNat, addrField_toNat, opdField_toNat]
  omega

/-- An operand narrower than `opd`, zero-extended into it (R80), is read back from its low bits. -/
theorem extractLsb'_setWidth_low {n : Nat} (h : n ≤ 16) (x : BitVec n) :
    (x.setWidth 16).extractLsb' 0 n = x := by
  apply BitVec.eq_of_toNat_eq
  have hx := x.isLt
  have hp : 2 ^ n ≤ 2 ^ 16 := Nat.pow_le_pow_right (by omega) h
  simp only [BitVec.extractLsb'_toNat, BitVec.toNat_setWidth, Nat.shiftRight_zero]
  rw [Nat.mod_eq_of_lt (a := x.toNat) (by omega), Nat.mod_eq_of_lt (by omega)]

/-- Sending gives as many bytes as asked for. -/
@[simp] theorem bytesLE_length (n v : Nat) : (bytesLE n v).length = n := by
  induction n generalizing v with
  | zero => rfl
  | succ n ih => simp [bytesLE, ih]

/-- The bytes of a number that fits make that number again (20_memory.md R61). -/
theorem ofBytesLE_bytesLE {n v : Nat} (h : v < 256 ^ n) : ofBytesLE (bytesLE n v) = v := by
  induction n generalizing v with
  | zero => simp_all [bytesLE, ofBytesLE]
  | succ n ih =>
    have hv : v / 256 < 256 ^ n := Nat.div_lt_of_lt_mul (by rw [← Nat.pow_succ']; exact h)
    simp only [bytesLE, ofBytesLE, ih hv, BitVec.toNat_ofNat]
    omega

/-- What was sent as n whole bytes is received, and the bytes after it stay (R61, R62). -/
theorem receive_bytesLE {width n : Nat} (hw : 2 ^ width ≤ 256 ^ n) (w : BitVec width) (rest : List Byte) :
    receive width n (bytesLE n w.toNat ++ rest) = some (w, rest) := by
  have hv : w.toNat < 256 ^ n := Nat.lt_of_lt_of_le w.isLt hw
  simp [receive, ofBytesLE_bytesLE hv]

/-- A partial transfer delivers nothing (R62). -/
theorem receive_partial {width n : Nat} {bs : List Byte} (h : bs.length < n) : receive width n bs = none := by
  simp [receive, h]

end Sys2Proof
end

