-- ==== Sys2Proof/Laws/PerInstr.lean ====
section
/-! SUPPORT. The statement made per instruction: its word is an instance of its row of spec/opcode_table.json. -/

namespace Sys2Proof.Laws.MatchesTable

/-- The "mask" of the command's row: the bits the row fixes. -/
def rowMask : Instr → Word
  | .tick => 0xFFFFFFFF
  | .sub _ _ => 0xF0000000
  | .unsub _ _ => 0xF0000000
  | .pub _ _ => 0xF0000000
  | .dread _ => 0xFF00FFFF
  | .dwrite _ _ => 0xFF00FFFE
  | .aread _ => 0xFF00FFFF
  | .setmode _ _ => 0xFF00FF00
  | .ack _ => 0xFFFFFFFE

/-- The "match" of the command's row: the values of those bits. -/
def rowBits : Instr → Word
  | .tick => 0x00000000
  | .sub _ _ => 0x10000000
  | .unsub _ _ => 0x20000000
  | .pub _ _ => 0x30000000
  | .dread _ => 0x40000000
  | .dwrite _ _ => 0x50000000
  | .aread _ => 0x60000000
  | .setmode _ _ => 0x70000000
  | .ack _ => 0x80000000

/-- The command's word has the bits its row of the opcode table fixes. -/
def Statement (i : Instr) : Prop := encode i &&& rowMask i = rowBits i

/-- The bits under a mask of whole fields are those of the fields. -/
theorem packWord_and (op op' : Opcode) (k k' : Kind) (a a' : Addr) (o o' : BitVec 16) :
    packWord op k a o &&& packWord op' k' a' o' = packWord (op &&& op') (k &&& k') (a &&& a') (o &&& o') := by
  show (op ++ k ++ a ++ o) &&& (op' ++ k' ++ a' ++ o') = (op &&& op') ++ (k &&& k') ++ (a &&& a') ++ (o &&& o')
  simp only [BitVec.and_append]

theorem tick : Statement .tick := by
  unfold Statement
  decide

theorem sub (k : Key) (l : Listener) : Statement (.sub k l) := by
  show packWord 0x1 k.kind k.addr l &&& packWord 0xF 0 0 0 = _
  rw [packWord_and]
  simp
  rfl

theorem unsub (k : Key) (l : Listener) : Statement (.unsub k l) := by
  show packWord 0x2 k.kind k.addr l &&& packWord 0xF 0 0 0 = _
  rw [packWord_and]
  simp
  rfl

theorem pub (k : Key) (v : Value) : Statement (.pub k v) := by
  show packWord 0x3 k.kind k.addr v &&& packWord 0xF 0 0 0 = _
  rw [packWord_and]
  simp
  rfl

theorem dread (a : Addr) : Statement (.dread a) := by
  show packWord 0x4 0 a 0 &&& packWord 0xF 0xF 0 0xFFFF = _
  rw [packWord_and]
  simp
  rfl

theorem dwrite (a : Addr) (b : Bit) : Statement (.dwrite a b) := by
  have h : ∀ b : Bit, b.setWidth 16 &&& (0xFFFE : BitVec 16) = 0 := by decide
  show packWord 0x5 0 a (b.setWidth 16) &&& packWord 0xF 0xF 0 0xFFFE = _
  rw [packWord_and, h]
  simp
  rfl

theorem aread (a : Addr) : Statement (.aread a) := by
  show packWord 0x6 0 a 0 &&& packWord 0xF 0xF 0 0xFFFF = _
  rw [packWord_and]
  simp
  rfl

theorem setmode (a : Addr) (m : Mode) : Statement (.setmode a m) := by
  have h : ∀ m : Mode, m.setWidth 16 &&& (0xFF00 : BitVec 16) = 0 := by decide
  show packWord 0x7 0 a (m.setWidth 16) &&& packWord 0xF 0xF 0 0xFF00 = _
  rw [packWord_and, h]
  simp
  rfl

theorem ack (f : Bit) : Statement (.ack f) := by
  revert f
  unfold Statement
  decide

end Sys2Proof.Laws.MatchesTable
end

