-- ==== Sys2Proof/Tests/Slice0.lean ====
section
/-! SUPPORT. Tests: ill-formed terms refused, words written out from the spec's encodings, one step per case with
results taken from 95_test_vectors.md, and a witness for the hypotheses of each statement. -/

namespace Sys2Proof.Tests

open Sys2Proof.Machine

/-! ## Helpers -/

/-- Parameters of the vectors: `ADC_BITS` 12, `SUB_CAPACITY` 2, `MAX_DEPTH` 3, `RISING_LEVEL` 1, 16 channels. -/
def params : Params := ⟨0, 1, 0, 1, .sixteen, 0x20, 0, 0, 50⟩

/-- Reset, with the devices' answers to come. -/
def idle (draws : List Draw) : State := { State.resetWith params with draws := draws }

/-- The state of a registry. -/
def registered (r : List SubEntry) : State := { State.resetWith params with registry := r }

/-- The state of a stack, with the moves to come. -/
def stacked (st : List Frame) (moves : List Input) : State :=
  { State.resetWith params with stack := st, inputs := moves }

/-- An awaited delivery of V44: `DigitalFalling@40`, value 0, to listener 1 of 1 and 2. -/
def awaited : DispFrame := ⟨⟨1, 40⟩, 0, [1, 2], 0, true, .pass⟩

def good (v : BitVec 16) : Draw := ⟨true, v⟩
def bad : Draw := ⟨false, 0⟩

/-- The outputs of an outcome: responses, deliveries, log, device accesses. -/
def outputs : Host.Outcome State Fault Refusal →
    Option (List Word × List (BitVec 48) × List (BitVec 64) × List DevRecord)
  | .next t => some (t.resp, t.deliv, t.log, t.devhist)
  | _ => none

/-- What the block's bookkeeping holds after an outcome. -/
def blockOf : Host.Outcome State Fault Refusal → Option (List SubEntry × Bool × List Frame)
  | .next t => some (t.registry, t.tickPending, t.stack)
  | _ => none

/-! ## Ill-formed assembler terms (30_encoding.md R83, R92) -/

theorem test_user3_is_no_kind : (KindName.user 3).wellFormed = false := by decide
theorem test_user16_is_no_kind : (KindName.user 16).wellFormed = false := by decide
theorem test_key_address_256 : (AsmKey.mk .digitalChange 256).wellFormed = false := by decide
theorem test_sub_listener_65536 : (AsmCmd.sub ⟨.digitalChange, 1⟩ 65536).wellFormed = false := by decide
theorem test_sub_bad_key : (AsmCmd.sub ⟨.user 0, 1⟩ 1).wellFormed = false := by decide
theorem test_unsub_listener_65536 : (AsmCmd.unsub ⟨.digitalChange, 1⟩ 65536).wellFormed = false := by decide
theorem test_unsub_bad_key : (AsmCmd.unsub ⟨.user 0, 1⟩ 1).wellFormed = false := by decide
theorem test_pub_value_65536 : (AsmCmd.pub ⟨.analogChange, 1⟩ 65536).wellFormed = false := by decide
theorem test_pub_bad_key : (AsmCmd.pub ⟨.analogChange, 256⟩ 1).wellFormed = false := by decide
theorem test_dread_256 : (AsmCmd.dread 256).wellFormed = false := by decide
theorem test_dwrite_address_256 : (AsmCmd.dwrite 256 1).wellFormed = false := by decide
theorem test_dwrite_level_2 : (AsmCmd.dwrite 1 2).wellFormed = false := by decide
theorem test_aread_256 : (AsmCmd.aread 256).wellFormed = false := by decide
theorem test_setmode_address_256 : (AsmCmd.setmode 256 0).wellFormed = false := by decide
theorem test_setmode_mode_256 : (AsmCmd.setmode 1 256).wellFormed = false := by decide

/-! ## Assembler text (R92, with the forms' own layout, and P1 and V41 of 95_test_vectors.md) -/

theorem test_text_sub : assembleText "SUB     DigitalFalling@40, L1" = some (.sub ⟨1, 40⟩ 1) := by decide
theorem test_text_pub_hex : assembleText "PUB User7@2, 0x1234" = some (.pub ⟨7, 2⟩ 0x1234) := by decide
theorem test_text_ack_fault : assembleText "ACK     fault" = some (.ack 1) := by decide
theorem test_text_value_too_wide : assembleText "DREAD 256" = none := by decide
theorem test_text_written : instrText (.unsub ⟨15, 255⟩ 65535) = "UNSUB User15@255, L65535" := by decide

/-! ## Words written out from the patterns of R82 (op, kind, addr, opd), and V1 to V16 -/

theorem test_decode_tick : decode 0b0000_0000_00000000_0000000000000000 = .ok .tick := by decide
theorem test_decode_sub : decode 0b0001_0001_00101000_0000000000000001 = .ok (.sub ⟨1, 40⟩ 1) := by decide
theorem test_decode_unsub : decode 0b0010_0011_00000101_0000000000000111 = .ok (.unsub ⟨3, 5⟩ 7) := by decide
theorem test_decode_pub : decode 0b0011_0100_00000111_0000000000000101 = .ok (.pub ⟨4, 7⟩ 5) := by decide
theorem test_decode_dread : decode 0b0100_0000_01100011_0000000000000000 = .ok (.dread 99) := by decide
theorem test_decode_dwrite : decode 0b0101_0000_00010001_0000000000000001 = .ok (.dwrite 17 1) := by decide
theorem test_decode_aread : decode 0b0110_0000_01000001_0000000000000000 = .ok (.aread 65) := by decide
theorem test_decode_setmode : decode 0b0111_0000_00110001_0000000011111111 = .ok (.setmode 49 255) := by decide
theorem test_decode_ack : decode 0b1000_0000_00000000_0000000000000001 = .ok (.ack 1) := by decide
theorem test_decode_V2 : decode 0x00000001 = .error .reservedField := by decide
theorem test_decode_V3 : decode 0x90000000 = .error .reservedOpcode := by decide
theorem test_decode_V4 : decode 0xF1234567 = .error .reservedOpcode := by decide
theorem test_decode_V5 : decode 0x1FFFFFFF = .ok (.sub ⟨15, 255⟩ 65535) := by decide
theorem test_decode_V6 : decode 0x41280000 = .error .reservedField := by decide
theorem test_decode_V7 : decode 0x40280001 = .error .reservedField := by decide
theorem test_decode_V9 : decode 0x50110002 = .error .reservedField := by decide
theorem test_decode_V11 : decode 0x70310100 = .error .reservedField := by decide
theorem test_decode_V14 : decode 0x80000002 = .error .reservedField := by decide
theorem test_decode_V15 : decode 0x80010000 = .error .reservedField := by decide
theorem test_decode_V16 : decode 0x60000000 = .ok (.aread 0) := by decide
theorem test_encode_W3 : encode (.pub ⟨5, 1⟩ 7) = 0x35010007 := by decide
/-- R61 on the words of V30, pass 4, and of P3. -/
theorem test_bytes_little_endian :
    bytesOfWord 0x11280001 = [0x01, 0x00, 0x28, 0x11] ∧
    bytesOfDelivery 0x0001000C0001 = [0x01, 0x00, 0x0C, 0x00, 0x01, 0x00] ∧
    bytesOfLog 0x5063000000040000 = [0x00, 0x00, 0x04, 0x00, 0x00, 0x00, 0x63, 0x50] := by decide

/-! ## One step of each command, results from 95_test_vectors.md -/

/-- V37, second row. -/
theorem test_tick_overrun :
    outputs (exec .tick { idle [] with tickPending := true }) =
      some ([0x00000000], [], [0x9000000000000000], []) := by decide

/-- W2: the pair is present. -/
theorem test_sub_again :
    outputs (exec (.sub ⟨0, 12⟩ 3) (registered [⟨⟨0, 12⟩, 3⟩])) =
      some ([0x20000000], [], [0x200C000300000000], []) := by decide

/-- V40, step 3: the registry is full. -/
theorem test_sub_full :
    outputs (exec (.sub ⟨6, 1⟩ 3) (registered [⟨⟨6, 1⟩, 1⟩, ⟨⟨6, 1⟩, 2⟩])) =
      some ([0x50000000], [], [0x6601000300000000], []) := by decide

/-- V41: the others keep their order. -/
theorem test_unsub_middle :
    blockOf (exec (.unsub ⟨7, 2⟩ 2) (registered [⟨⟨7, 2⟩, 1⟩, ⟨⟨7, 2⟩, 2⟩, ⟨⟨7, 2⟩, 3⟩])) =
      some ([⟨⟨7, 2⟩, 1⟩, ⟨⟨7, 2⟩, 3⟩], false, []) := by decide

/-- P3: the pair is absent. -/
theorem test_unsub_absent :
    outputs (exec (.unsub ⟨0, 12⟩ 3) (registered [⟨⟨0, 12⟩, 4⟩])) =
      some ([0x30000000], [], [0x300C000300000000], []) := by decide

/-- P3: a `PUB` of `DigitalRising@12` with listeners 3 and 4. -/
theorem test_pub_snapshot :
    blockOf (exec (.pub ⟨0, 12⟩ 1) (registered [⟨⟨0, 12⟩, 3⟩, ⟨⟨0, 12⟩, 4⟩])) =
      some ([⟨⟨0, 12⟩, 3⟩, ⟨⟨0, 12⟩, 4⟩], false, [.disp ⟨⟨0, 12⟩, 1, [3, 4], 0, false, .host⟩]) := by decide

/-- V42: the fourth `PUB`. -/
theorem test_pub_depth :
    outputs (exec (.pub ⟨11, 0⟩ 0) (stacked [.disp awaited, .disp awaited, .disp awaited] [])) =
      some ([0x60000000], [], [0x7B00000000000000], []) := by decide

/-- V26. -/
theorem test_dread_local :
    outputs (exec (.dread 46) (idle [good 1])) =
      some ([0x00000001], [], [], [.devRead .localBank 46 (.ok 1)]) := by decide

/-- V29d. -/
theorem test_dread_fail :
    outputs (exec (.dread 20) (idle [bad])) =
      some ([0x40000000], [], [0x4014000000040000], [.devRead .expB 3 .fail]) := by decide

/-- V29e. -/
theorem test_dwrite :
    outputs (exec (.dwrite 17 1) (idle [good 0])) =
      some ([0x00000000], [], [], [.devWrite .expB 0 1 (.ok 0)]) := by decide

/-- V29h. -/
theorem test_dwrite_fail :
    outputs (exec (.dwrite 64 0) (idle [bad])) =
      some ([0x40000000], [], [0x4040000000050000], [.devWrite .expC 15 0 .fail]) := by decide

/-- V29i. -/
theorem test_aread_mux :
    outputs (exec (.aread 1) (idle [good 0x123])) =
      some ([0x00000123], [], [], [.muxSelect 0, .muxRead 0 (.ok 0x123)]) := by decide

/-- V29r: `MUX_CHANNELS` = 8. -/
theorem test_aread_eight_channels :
    outputs (exec (.aread 9) { idle [] with cfg := { params with muxSize := .eight } }) =
      some ([0x00000000], [], [], []) := by decide

/-- V29s. -/
theorem test_setmode :
    outputs (exec (.setmode 5 0x12) (idle [good 0])) =
      some ([0x00000000], [], [], [.devMode .expA 4 0x12 (.ok 0)]) := by decide

/-- V29u. -/
theorem test_setmode_out_of_range :
    outputs (exec (.setmode 70 1) (idle [])) = some ([0x10000000], [], [0x5046000000070000], []) := by decide

/-- V44. -/
theorem test_ack_fault :
    outputs (exec (.ack 1) (stacked [.disp awaited] [])) = some ([], [], [0x1128000100000000], []) := by decide

/-- V45. -/
theorem test_ack_stray :
    outputs (exec (.ack 0) (idle [])) = some ([0x70000000], [], [0x8000000080000000], []) := by decide

/-! ## One step of the sequencer -/

/-- V30, pass 4: `DCACHE[12]` holds 0 and reads 1. -/
theorem test_sample_change :
    blockOf (step { stacked [.pass ⟨.digital 11, []⟩] [.seq] with
        dcache := (State.resetWith params).dcache.set 11 (.held 0), draws := [good 1] }) =
      some ([], false, [.pass ⟨.digital 12, [⟨⟨0, 12⟩, 1⟩, ⟨⟨2, 12⟩, 1⟩]⟩]) := by decide

/-- V31: the same change with `RISING_LEVEL` = 0. -/
theorem test_sample_change_inverted :
    blockOf (step { stacked [.pass ⟨.digital 11, []⟩] [.seq] with
        cfg := { params with risingLevel := 0 },
        dcache := (State.resetWith params).dcache.set 11 (.held 0), draws := [good 1] }) =
      some ([], false, [.pass ⟨.digital 12, [⟨⟨1, 12⟩, 1⟩, ⟨⟨2, 12⟩, 1⟩]⟩]) := by decide

/-- V33, pass 4: a failed analog read. -/
theorem test_sample_analog_fail :
    outputs (step { stacked [.pass ⟨.analog 16, []⟩] [.seq] with draws := [bad] }) =
      some ([], [], [0x412F000000000000], [.adcRead 1 .fail]) := by decide

/-- V44: the delivery to listener 2 after the fault of listener 1. -/
theorem test_deliver_next :
    outputs (step (stacked [.disp { awaited with pos := 1, sent := false }] [.seq])) =
      some ([], [0x000210280000], [], []) := by decide

/-- W3: the second `PUB` completes with count 2. -/
theorem test_complete_count :
    outputs (step (stacked [.disp ⟨⟨5, 1⟩, 7, [1, 2], 2, false, .host⟩] [.seq])) =
      some ([0x00020000], [], [], []) := by decide

/-- V2, sent idle. -/
theorem test_illegal_word :
    outputs (step (stacked [] [.host 0x00000001])) =
      some ([0x70000000], [], [0x8000000000000001], []) := by decide

/-- The first word after reset is the one placed (V45). -/
theorem test_first_word_after_reset :
    outputs (step (State.reset.withFetchWord 32 0x80000000)) =
      some ([0x70000000], [], [0x8000000080000000], []) := by decide

/-! ## Witnesses: each statement's hypotheses, clause by clause, are met -/

theorem witness_EncodeOfDecode : decode 0x703100FF = .ok (.setmode 49 255) := by decide

theorem witness_DecodeIsTheTable :
    (0x00000000 : Word).toNat / 2 ^ 28 = 0 ∧ (0x1FFFFFFF : Word).toNat / 2 ^ 28 = 1 ∧
    (0x20000000 : Word).toNat / 2 ^ 28 = 2 ∧ (0x3FFFFFFF : Word).toNat / 2 ^ 28 = 3 ∧
    (0x40FF0000 : Word).toNat / 2 ^ 28 = 4 ∧ (0x50110001 : Word).toNat / 2 ^ 28 = 5 ∧
    (0x60FF0000 : Word).toNat / 2 ^ 28 = 6 ∧ (0x703100FF : Word).toNat / 2 ^ 28 = 7 ∧
    (0x80000001 : Word).toNat / 2 ^ 28 = 8 ∧ 9 ≤ (0x90000000 : Word).toNat / 2 ^ 28 := by decide

theorem witness_BytesCarryWholeWords :
    ([1, 2, 3] : List Byte).length < 4 ∧ ([1, 2, 3, 4, 5] : List Byte).length < 6 ∧
    ([1, 2, 3, 4, 5, 6, 7] : List Byte).length < 8 := by decide

/-- Each clause at the last number that fits and the first that does not. -/
theorem witness_AssemblyFitsFields :
    (AsmCmd.dread 256).wellFormed = false ∧
    ((AsmKey.mk (.user 3) 0).kind = .user 3 ∧ 3 < 4) ∧ ((AsmKey.mk (.user 16) 0).kind = .user 16 ∧ 15 < 16) ∧
    256 ≤ (AsmKey.mk .digitalRising 256).addr ∧ 65536 ≤ 65536 ∧ 2 ≤ 2 ∧
    ((AsmKey.mk (.user 15) 255).kind = .user 15 ∧ 4 ≤ 15 ∧ 15 ≤ 15) ∧
    ((AsmKey.mk (.user 4) 255).kind = .user 4 ∧ 4 ≤ 4) ∧ (AsmKey.mk (.user 15) 255).addr < 256 ∧ 65535 < 65536 ∧
    255 < 256 ∧ 1 < 2 ∧ assemble (.pub ⟨.user 15, 255⟩ 65535) = some (.pub ⟨15, 255⟩ 65535) := by decide

/-- The last named kind, the first and the last user kind, and the last value of each number. -/
theorem witness_SourceCallsAreOneCommand :
    255 < 256 ∧ 65535 < 65536 ∧ 1 < 2 ∧ (AsmKey.mk .analogChange 255).wellFormed = true ∧
    (AsmKey.mk (.user 4) 0).wellFormed = true ∧ (AsmKey.mk (.user 15) 255).wellFormed = true := by decide

/-- Both ends of each row of R51. -/
theorem witness_DigitalRoutingTable :
    routeD 1 = .dev .expA 0 ∧ routeD 16 = .dev .expA 15 ∧ routeD 17 = .dev .expB 0 ∧ routeD 32 = .dev .expB 15 ∧
    routeD 33 = .dev .localBank 33 ∧ routeD 46 = .dev .localBank 46 ∧ routeD 47 = .reserved ∧
    routeD 48 = .reserved ∧ routeD 49 = .dev .expC 0 ∧ routeD 64 = .dev .expC 15 ∧ routeD 0 = .outOfRange ∧
    routeD 65 = .outOfRange ∧ routeD 255 = .outOfRange := by decide

/-- Both ends of each row of R52. -/
theorem witness_AnalogRoutingTable :
    routeA 1 = .mux 0 ∧ routeA 16 = .mux 15 ∧ routeA 47 = .adc 1 ∧ routeA 48 = .adc 2 ∧ routeA 0 = .outOfRange ∧
    routeA 17 = .outOfRange ∧ routeA 46 = .outOfRange ∧ routeA 49 = .outOfRange ∧ routeA 255 = .outOfRange := by
  decide

theorem witness_ExpandersPartitionTheirLines :
    Device.expC ≠ .localBank ∧ 15 < 16 ∧ routeD 64 = .dev .expC 15 := by decide

/-- A routed, a reserved and an out-of-range address, a good and a failing answer: `DREAD`, `DWRITE`, `SETMODE`. -/
theorem witness_DirectDigitalEffects :
    routeD 65 = .outOfRange ∧ routeD 48 = .reserved ∧ routeD 64 = .dev .expC 15 ∧
    levelOf (nextDraw (idle [good 1])) = .ok 1 ∧ levelOf (nextDraw (idle [bad])) = .fail ∧
    (nextDraw (idle [good 1])).ok = true ∧ (nextDraw (idle [bad])).ok = false := by decide

/-- The clauses of `AREAD`: the channel at the limit of 8 and the one just below the limit of 16. -/
theorem witness_AreadEffect :
    routeA 255 = .outOfRange ∧
    (routeA 9 = .mux 8 ∧ ({ params with muxSize := .eight } : Params).muxChannels ≤ (8 : Channel).toNat) ∧
    (routeA 16 = .mux 15 ∧ (15 : Channel).toNat < params.muxChannels) ∧ routeA 48 = .adc 2 ∧
    sampleOf params (nextDraw (idle [good 0xFFF])) = .ok 0xFFF ∧
    sampleOf params (nextDraw (idle [bad])) = .fail := by decide

theorem witness_DirectCommandsLeaveBlockState :
    (∃ a, Instr.dread 1 = .dread a) ∧ (∃ a b, Instr.dwrite 1 1 = .dwrite a b) ∧ (∃ a, Instr.aread 1 = .aread a) ∧
      ∃ a m, Instr.setmode 1 0 = .setmode a m :=
  ⟨⟨1, rfl⟩, ⟨1, 1, rfl⟩, ⟨1, rfl⟩, ⟨1, 0, rfl⟩⟩

theorem witness_TickInputEffect : (stacked [.pass ⟨.digital 3, []⟩] [.tick]).inputs = .tick :: [] := by decide

theorem witness_ResetStep : (stacked [.disp awaited] [.reset]).inputs = .reset :: [] := by decide

theorem witness_PassStartStep :
    ∃ s : State, s.stack = [] ∧ s.tickPending = true ∧ s.inputs = .seq :: [] :=
  ⟨{ stacked [] [.seq] with tickPending := true }, by decide⟩

theorem witness_CursorOrder : (63 : Fin 64).val = (62 : Fin 64).val + 1 ∧ (17 : Fin 18).val = (16 : Fin 18).val + 1 := by
  decide

/-- Address 12: a failing answer, the entry empty, held alike, held otherwise. -/
theorem witness_DigitalSampleStep :
    ∃ s : State, (s.stack = .pass ⟨.digital 11, []⟩ :: [] ∧ s.inputs = .seq :: [] ∧
        routeD (digitalAddr 11) = .dev .expA 11) ∧
      s.dcache[(11 : Fin 64)] = .held 0 ∧ levelOf (nextDraw s) = .ok 1 ∧ (0 : Bit) ≠ 1 ∧
      levelOf (nextDraw { s with draws := [good 0] }) = .ok 0 ∧
      levelOf (nextDraw { s with draws := [bad] }) = .fail ∧
      ({ s with dcache := (State.resetWith params).dcache }).dcache[(11 : Fin 64)] = .empty :=
  ⟨{ stacked [.pass ⟨.digital 11, []⟩] [.seq] with
      dcache := (State.resetWith params).dcache.set 11 (.held 0), draws := [good 1] }, by decide⟩

/-- Both reserved addresses, the first seeded with 0, the second empty. -/
theorem witness_ReservedSampleStep :
    (∃ s : State, s.stack = .pass ⟨.digital 46, []⟩ :: [] ∧ s.inputs = .seq :: [] ∧
      s.dcache[(46 : Fin 64)] = .held 0 ∧ s.dcache[(46 : Fin 64)] ≠ .held 1) ∧
    ∃ s : State, s.stack = .pass ⟨.digital 47, []⟩ :: [] ∧ s.inputs = .seq :: [] ∧
      s.dcache[(47 : Fin 64)] ≠ .held 1 :=
  ⟨⟨{ stacked [.pass ⟨.digital 46, []⟩] [.seq] with
      dcache := (State.resetWith params).dcache.set 46 (.held 0) }, by decide⟩,
    stacked [.pass ⟨.digital 47, []⟩] [.seq], by decide⟩

/-- The last multiplexer channel with its entry held otherwise and alike and with a failing answer; the first
channel at a limit of 8; the first ADC channel with its entry empty. -/
theorem witness_AnalogSampleStep :
    (∃ s : State, s.stack = .pass ⟨.analog 15, []⟩ :: [] ∧ s.inputs = .seq :: [] ∧
      ¬ ((15 : Fin 18).val < 16 ∧ s.cfg.muxChannels ≤ (15 : Fin 18).val) ∧
      s.acache[(15 : Fin 18)] = .held 6 ∧ sampleOf s.cfg (nextDraw s) = .ok 7 ∧ (6 : Value) ≠ 7 ∧
      sampleOf s.cfg (nextDraw { s with draws := [good 6] }) = .ok 6 ∧
      sampleOf s.cfg (nextDraw { s with draws := [bad] }) = .fail) ∧
    (∃ s : State, s.stack = .pass ⟨.analog 8, []⟩ :: [] ∧ s.inputs = .seq :: [] ∧
      ((8 : Fin 18).val < 16 ∧ s.cfg.muxChannels ≤ (8 : Fin 18).val)) ∧
    ∃ s : State, s.stack = .pass ⟨.analog 16, []⟩ :: [] ∧ s.inputs = .seq :: [] ∧ ¬ (16 : Fin 18).val < 16 ∧
      s.acache[(16 : Fin 18)] = .empty :=
  ⟨⟨{ stacked [.pass ⟨.analog 15, []⟩] [.seq] with
      acache := (State.resetWith params).acache.set 15 (.held 6), draws := [good 7] }, by decide⟩,
    ⟨{ stacked [.pass ⟨.analog 8, []⟩] [.seq] with cfg := { params with muxSize := .eight } }, by decide⟩,
    stacked [.pass ⟨.analog 16, []⟩] [.seq], by decide⟩

theorem witness_PassPublishStep :
    ∃ s : State, s.stack = .pass ⟨.digital 12, (⟨⟨0, 12⟩, 1⟩ : Event) :: [⟨⟨2, 12⟩, 1⟩]⟩ :: [] ∧
      s.inputs = .seq :: [] :=
  ⟨stacked [.pass ⟨.digital 12, [⟨⟨0, 12⟩, 1⟩, ⟨⟨2, 12⟩, 1⟩]⟩] [.seq], by decide⟩

theorem witness_PassEndStep :
    (stacked [.pass ⟨.finished, []⟩] [.seq]).stack = .pass ⟨.finished, []⟩ :: [] ∧
    (stacked [.pass ⟨.finished, []⟩] [.seq]).inputs = .seq :: [] := by decide

/-- Idle without a tick, and awaiting an ACK. -/
theorem witness_SequencerWaits :
    (∃ s : State, s.inputs = .seq :: [] ∧ s.stack = [] ∧ s.tickPending = false) ∧
    ∃ s : State, s.inputs = .seq :: [] ∧ ∃ d rest, s.stack = .disp d :: rest ∧ d.sent = true :=
  ⟨⟨stacked [] [.seq], by decide⟩, stacked [.disp awaited] [.seq], rfl, awaited, [], by decide⟩

/-- The three cases of `SUB`, and the two of `UNSUB`. -/
theorem witness_SubEffect_UnsubEffect :
    (⟨⟨6, 1⟩, 1⟩ : SubEntry) ∈ (registered [⟨⟨6, 1⟩, 1⟩, ⟨⟨6, 1⟩, 2⟩]).registry ∧
    (⟨⟨6, 1⟩, 3⟩ : SubEntry) ∉ (registered [⟨⟨6, 1⟩, 1⟩, ⟨⟨6, 1⟩, 2⟩]).registry ∧
    (registered [⟨⟨6, 1⟩, 1⟩, ⟨⟨6, 1⟩, 2⟩]).registry.length = params.subCapacity ∧
    (registered [⟨⟨6, 1⟩, 1⟩]).registry.length ≠ params.subCapacity ∧
    (registered [⟨⟨6, 1⟩, 1⟩, ⟨⟨6, 1⟩, 2⟩]).registry = [⟨⟨6, 1⟩, 1⟩] ++ (⟨⟨6, 1⟩, 2⟩ : SubEntry) :: [] ∧
    (⟨⟨6, 1⟩, 2⟩ : SubEntry) ∉ ([⟨⟨6, 1⟩, 1⟩] : List SubEntry) := by decide

/-- Three frames are the limit, two are below it. -/
theorem witness_PubEffect :
    (stacked [.disp awaited, .disp awaited, .disp awaited] []).stack.length = params.maxDepth ∧
    (stacked [.disp awaited, .disp awaited] []).stack.length ≠ params.maxDepth := by decide

/-- The last listener of two to deliver to; an empty and a finished snapshot to complete, of a `PUB` and of the
pass. -/
theorem witness_DeliverStep_CompleteStep :
    (∃ (s : State) (d : DispFrame), s.stack = .disp d :: [] ∧ s.inputs = .seq :: [] ∧ d.sent = false ∧
      d.snap[d.pos]? = some 2) ∧
    (∃ (s : State) (d : DispFrame), s.stack = .disp d :: [] ∧ s.inputs = .seq :: [] ∧ d.sent = false ∧
      d.pos = d.snap.length ∧ d.origin = .host) ∧
    ∃ (s : State) (d : DispFrame), s.stack = .disp d :: [.pass ⟨.digital 40, []⟩] ∧ s.inputs = .seq :: [] ∧
      d.sent = false ∧ d.pos = d.snap.length ∧ d.origin = .pass :=
  ⟨⟨stacked [.disp ⟨⟨5, 1⟩, 7, [1, 2], 1, false, .host⟩] [.seq], ⟨⟨5, 1⟩, 7, [1, 2], 1, false, .host⟩, by decide⟩,
    ⟨stacked [.disp ⟨⟨5, 1⟩, 7, [], 0, false, .host⟩] [.seq], ⟨⟨5, 1⟩, 7, [], 0, false, .host⟩, by decide⟩,
    stacked [.disp { awaited with pos := 2, sent := false }, .pass ⟨.digital 40, []⟩] [.seq],
    { awaited with pos := 2, sent := false }, by decide⟩

theorem witness_AckEffect :
    awaited.sent = true ∧ awaited.snap[awaited.pos]? = some 1 ∧
    (stacked [.disp awaited] []).stack = .disp awaited :: [] ∧
    ∀ d rest, (idle []).stack = .disp d :: rest → d.sent = false := by
  refine ⟨by decide, by decide, by decide, ?_⟩
  intro d rest h
  cases h

theorem witness_IllegalWordStep :
    (∃ s : State, accepting s = true ∧ s.inputs = .host 0x80000002 :: [] ∧ ∃ c, decode 0x80000002 = .error c) ∧
    ∃ s : State, accepting s = true ∧ s.inputs = .host 0x80000000 :: [] ∧ s.stack = [] ∧
      ∃ f, decode 0x80000000 = .ok (.ack f) :=
  ⟨⟨stacked [.disp awaited] [.host 0x80000002], by decide, rfl, .reservedField, by decide⟩,
    stacked [] [.host 0x80000000], by decide, rfl, rfl, 0, by decide⟩

theorem witness_ListenerFaultIsIsolated :
    (∃ t, exec (.ack 1) (stacked [.disp awaited] []) = .next t) ∧ accepting (stacked [.disp awaited] []) = true ∧
    (stacked [.disp awaited] []).stack ≠ [] :=
  ⟨⟨_, rfl⟩, by decide, by decide⟩

theorem witness_SubscribeTwice :
    ∃ t, exec (.sub ⟨0, 12⟩ 3) (registered []) = .next t ∧ (⟨⟨0, 12⟩, 3⟩ : SubEntry) ∈ t.registry :=
  ⟨_, rfl, by decide⟩

theorem witness_SubscribeThenUnsubscribe :
    ∃ t u, (registered []).registry.Nodup ∧ exec (.sub ⟨2, 3⟩ 4) (registered []) = .next t ∧
      exec (.unsub ⟨2, 3⟩ 4) t = .next u :=
  ⟨_, _, by decide, rfl, rfl⟩

theorem witness_CountIsMatchingEntries :
    (registered [⟨⟨4, 7⟩, 9⟩]).registry.length ≤ 4095 ∧ (registered [⟨⟨4, 7⟩, 9⟩]).stack.length ≠ params.maxDepth ∧
    ∃ t, exec (.pub ⟨4, 7⟩ 5) (registered [⟨⟨4, 7⟩, 9⟩]) = .next t :=
  ⟨by decide, by decide, _, rfl⟩

/-- A dispatch to two listeners, the first of which throws. -/
theorem witness_DispatchDeliversSnapshot :
    ∃ (s : State) (d : DispFrame) (fs : List Bit), s.stack = .disp d :: [] ∧ d.pos = 0 ∧ d.sent = false ∧
      fs.length = d.snap.length ∧ s.inputs = ackMoves fs ++ .seq :: [] :=
  ⟨stacked [.disp ⟨⟨5, 1⟩, 7, [1, 2], 0, false, .host⟩] (ackMoves [1, 0] ++ [.seq]),
    ⟨⟨5, 1⟩, 7, [1, 2], 0, false, .host⟩, [1, 0], by decide⟩

theorem witness_StepRunsDecodedCommand :
    accepting (stacked [] [.host 0x11280001]) = true ∧
    (stacked [] [.host 0x11280001]).inputs = .host 0x11280001 :: [] ∧
    decode 0x11280001 = .ok (.sub ⟨1, 40⟩ 1) := by decide

theorem witness_WordWaitsUntilAccepting :
    accepting (stacked [.pass ⟨.digital 46, []⟩] [.host 0]) = false ∧
    (stacked [.pass ⟨.digital 46, []⟩] [.host 0]).inputs = .host 0 :: [] := by decide

/-- One state for each sequencer step, and three with none: idle, awaiting an ACK, and a frame R31 excludes. -/
theorem witness_AtMostOneSeqStepEnabled :
    seqEnabled .passStart { idle [] with tickPending := true } = true ∧
    seqEnabled .sampleDigital (stacked [.pass ⟨.digital 63, []⟩] []) = true ∧
    seqEnabled .sampleAnalog (stacked [.pass ⟨.analog 17, []⟩] []) = true ∧
    seqEnabled .passPublish (stacked [.pass ⟨.finished, [⟨⟨3, 48⟩, 1⟩]⟩] []) = true ∧
    seqEnabled .passEnd (stacked [.pass ⟨.finished, []⟩] []) = true ∧
    seqEnabled .deliver (stacked [.disp { awaited with sent := false }] []) = true ∧
    seqEnabled .complete (stacked [.disp ⟨⟨5, 1⟩, 7, [], 0, false, .host⟩] []) = true ∧
    (stacked [] [.seq]).inputs = .seq :: [] ∧
    (∀ s ∈ [idle [], stacked [.disp awaited] [], stacked [.disp ⟨⟨5, 1⟩, 7, [], 1, false, .host⟩] []],
      ∀ k ∈ [SeqKind.passStart, .sampleDigital, .sampleAnalog, .passPublish, .passEnd, .deliver, .complete],
        seqEnabled k s = false) ∧
    (⟨⟨5, 1⟩, 7, [], 1, false, .host⟩ : DispFrame).snap.length < 1 := by decide

/-- A state in the middle of a pass, a dispatch of the pass awaited, and a nested `PUB` on top, meets the invariant
(the premise of `SeqEnabledExactlyWhenNotAccepting` and `NothingHaltsTheBlock` too). -/
theorem witness_BlockInv :
    BlockInv { stacked [.disp ⟨⟨4, 5⟩, 1, [8, 9], 1, false, .host⟩, .disp awaited,
        .pass ⟨.digital 40, [⟨⟨2, 40⟩, 0⟩]⟩] [.seq] with
      registry := [⟨⟨1, 40⟩, 1⟩, ⟨⟨1, 40⟩, 2⟩]
      dcache := (State.resetWith params).dcache.set 46 (.held 0) } := by
  constructor <;> decide

theorem witness_StepKeepsInvariant :
    ∃ s t : State, BlockInv s ∧ step s = .next t :=
  ⟨{ stacked [.pass ⟨.digital 11, []⟩] [.seq] with draws := [good 1] }, _, by constructor <;> decide, rfl⟩

/-- A digital and an analog sample step that change their entry, the environment's move being no reset. -/
theorem witness_OnlySamplesAndResetChangeCaches :
    (nextInput (stacked [.pass ⟨.digital 11, []⟩] [.seq]) ≠ .reset ∧
      ∃ t, step { stacked [.pass ⟨.digital 11, []⟩] [.seq] with draws := [good 1] } = .next t ∧
        t.dcache[(11 : Fin 64)] ≠ .empty) ∧
    ∃ t, step { stacked [.pass ⟨.analog 16, []⟩] [.seq] with draws := [good 1] } = .next t ∧
      t.acache[(16 : Fin 18)] ≠ .empty :=
  ⟨⟨by decide, _, rfl, by decide⟩, _, rfl, by decide⟩

/-- A command, a sequencer step: each answers a next state. -/
theorem witness_NextStates :
    (∃ t, exec (.dread 1) (idle [good 1]) = .next t) ∧
    (nextInput (stacked [.disp awaited] [.host 0x80000000]) ≠ .reset ∧
      ∃ t, step (stacked [.disp awaited] [.host 0x80000000]) = .next t) :=
  ⟨⟨_, rfl⟩, by decide, _, rfl⟩

/-- Address 12 held at 0 reads 1; listener 1 of the edge, listener 2 of the change (V30, pass 4). -/
theorem witness_ChangedPinPublishesEdgeThenChange :
    ∃ s : State, s.stack = [.pass ⟨.digital 11, []⟩] ∧ routeD (digitalAddr 11) = .dev .expA 11 ∧
      s.dcache[(11 : Fin 64)] = .held 0 ∧ levelOf (nextDraw s) = .ok 1 ∧ (0 : Bit) ≠ 1 ∧
      (⟨if (1 : Bit) = s.cfg.risingLevel then 0 else 1, digitalAddr 11⟩ : Key) = ⟨0, 12⟩ ∧
      (⟨2, digitalAddr 11⟩ : Key) = ⟨2, 12⟩ ∧ snapshot ⟨0, 12⟩ s = [1] ∧ snapshot ⟨2, 12⟩ s = [2] ∧
      ([0] : List Bit).length = ([1] : List Listener).length ∧
      ([1] : List Bit).length = ([2] : List Listener).length ∧
      s.inputs = .seq :: .seq :: (ackMoves [0] ++ .seq :: .seq :: (ackMoves [1] ++ .seq :: [])) :=
  ⟨{ stacked [.pass ⟨.digital 11, []⟩]
        (.seq :: .seq :: (ackMoves [0] ++ .seq :: .seq :: (ackMoves [1] ++ [.seq]))) with
      dcache := (State.resetWith params).dcache.set 11 (.held 0)
      registry := [⟨⟨0, 12⟩, 1⟩, ⟨⟨2, 12⟩, 2⟩]
      draws := [good 1] }, by decide⟩

theorem witness_FirstPassPublishesNothing :
    ∃ s : State, s.stack = [] ∧ s.tickPending = true ∧ (∀ i : Fin 64, s.dcache[i] = .empty) ∧
      (∀ i : Fin 18, s.acache[i] = .empty) ∧ s.inputs = List.replicate 84 .seq ++ [] :=
  ⟨{ idle [] with tickPending := true, inputs := List.replicate 84 .seq ++ [] },
    rfl, rfl, by decide, by decide, rfl⟩

/-- Two looks at address 12, with levels 0 and 1. -/
theorem witness_ConsecutiveLooksQueueTheChange :
    ∃ t v, step { stacked [.pass ⟨.digital 11, []⟩] [.seq] with draws := [good 0] } = .next t ∧
      t.dcache[(11 : Fin 64)] = .held 0 ∧
      step { t with stack := [.pass ⟨.digital 11, []⟩], inputs := [.seq], draws := [good 1] } = .next v :=
  ⟨_, _, rfl, by decide, rfl⟩

end Sys2Proof.Tests
end

section
/-! SUPPORT. No operation of the block touches the configuration (00_scope.md R7): one equation per operation, then
one per agent's move; and the two statements of 00_scope.md that rest on the parameters. -/

namespace Sys2Proof.Machine

/-! ### Shared operations keep the configuration -/

@[simp] theorem raise_cfg (b : Bool) (c : Condition) (s : State) : (raise b c s).cfg = s.cfg := by
  rw [raise_eq]

@[simp] theorem devRead_cfg (d : Device) (idx : Nat) (s : State) : (devRead d idx s).cfg = s.cfg := rfl

@[simp] theorem devWrite_cfg (d : Device) (idx : Nat) (b : Bit) (s : State) : (devWrite d idx b s).cfg = s.cfg := rfl

@[simp] theorem devMode_cfg (d : Device) (idx : Nat) (m : Mode) (s : State) : (devMode d idx m s).cfg = s.cfg := rfl

@[simp] theorem adcRead_cfg (c : Nat) (s : State) : (adcRead c s).cfg = s.cfg := rfl

@[simp] theorem muxRead_cfg (ch : Channel) (s : State) : (muxRead ch s).cfg = s.cfg := by
  rw [muxRead_frame]

@[simp] theorem publish_cfg (k : Key) (v : Value) (o : Origin) (s : State) : (publish k v o s).cfg = s.cfg := rfl

@[simp] theorem tickIn_cfg (s : State) : (tickIn s).cfg = s.cfg := by
  rw [tickIn_eq]

/-! ### Commands keep it -/

theorem execTick_cfg {s t : State} (h : execTick s = .next t) : t.cfg = s.cfg := by
  cases h
  simp

theorem execSub_cfg {k : Key} {l : Listener} {s t : State} (h : execSub k l s = .next t) : t.cfg = s.cfg := by
  cases h
  split_ifs <;> simp

theorem execUnsub_cfg {k : Key} {l : Listener} {s t : State} (h : execUnsub k l s = .next t) : t.cfg = s.cfg := by
  cases h
  split_ifs <;> simp

theorem execPub_cfg {k : Key} {v : Value} {s t : State} (h : execPub k v s = .next t) : t.cfg = s.cfg := by
  cases h
  split_ifs <;> simp

theorem execDread_cfg {a : Addr} {s t : State} (h : execDread a s = .next t) : t.cfg = s.cfg := by
  cases h
  cases routeD a with
  | dev d idx => cases levelOf (nextDraw s) <;> simp
  | reserved => simp
  | outOfRange => simp

theorem execDwrite_cfg {a : Addr} {b : Bit} {s t : State} (h : execDwrite a b s = .next t) : t.cfg = s.cfg := by
  cases h
  cases routeD a with
  | dev d idx => cases doneOf (nextDraw s) <;> simp
  | reserved => simp
  | outOfRange => simp

@[simp] theorem areadAnswer_cfg (a : Addr) (r : Answer 16) (s : State) : (areadAnswer a r s).cfg = s.cfg := by
  rw [areadAnswer_frame]

theorem execAread_cfg {a : Addr} {s t : State} (h : execAread a s = .next t) : t.cfg = s.cfg := by
  cases h
  cases routeA a <;> simp

theorem execSetmode_cfg {a : Addr} {m : Mode} {s t : State} (h : execSetmode a m s = .next t) : t.cfg = s.cfg := by
  cases h
  cases routeD a with
  | dev d idx => cases doneOf (nextDraw s) <;> simp
  | reserved => simp
  | outOfRange => simp

theorem execAck_cfg {f : Bit} {s t : State} (h : execAck f s = .next t) : t.cfg = s.cfg := by
  obtain ⟨d, rest, -, -, -, he⟩ | ⟨d, rest, l, -, -, -, -, he⟩ | ⟨-, he⟩ | ⟨d, rest, -, -, -, he⟩ :=
    execAck_cases f s <;> cases he.symm.trans h <;> simp

theorem exec_cfg {i : Instr} {s t : State} (h : exec i s = .next t) : t.cfg = s.cfg := by
  cases i with
  | tick => exact execTick_cfg h
  | sub k l => exact execSub_cfg h
  | unsub k l => exact execUnsub_cfg h
  | pub k v => exact execPub_cfg h
  | dread a => exact execDread_cfg h
  | dwrite a b => exact execDwrite_cfg h
  | aread a => exact execAread_cfg h
  | setmode a m => exact execSetmode_cfg h
  | ack f => exact execAck_cfg h

theorem takeWord_cfg {w : Word} {s t : State} (h : takeWord w s = .next t) : t.cfg = s.cfg := by
  unfold takeWord at h
  split at h
  · exact exec_cfg h
  · cases h
    simp

/-! ### The sequencer's steps keep it -/

@[simp] theorem passStart_cfg (s : State) : (passStart s).cfg = s.cfg := rfl

@[simp] theorem sampleDigital_cfg (i : Fin 64) (rest : List Frame) (s : State) :
    (sampleDigital i rest s).cfg = s.cfg := by
  obtain ⟨r, u, he, hu, -⟩ := sampleDigital_cases i rest s
  rw [he, digitalSampled_frame, hu]

@[simp] theorem sampleAnalog_cfg (i : Fin 18) (rest : List Frame) (s : State) :
    (sampleAnalog i rest s).cfg = s.cfg := by
  obtain ⟨r, u, he, hu, -⟩ := sampleAnalog_cases i rest s
  rw [he, analogSampled_frame, hu]

@[simp] theorem passPublish_cfg (c : Cursor) (e : Event) (more : List Event) (rest : List Frame) (s : State) :
    (passPublish c e more rest s).cfg = s.cfg := rfl

@[simp] theorem passEnd_cfg (rest : List Frame) (s : State) : (passEnd rest s).cfg = s.cfg := rfl

@[simp] theorem passStep_cfg (p : PassFrame) (rest : List Frame) (s : State) : (passStep p rest s).cfg = s.cfg := by
  obtain ⟨e, more, -, he⟩ | ⟨i, -, he⟩ | ⟨i, -, he⟩ | ⟨-, he⟩ := passStep_cases p rest s <;> simp [he]

@[simp] theorem deliver_cfg (d : DispFrame) (l : Listener) (rest : List Frame) (s : State) :
    (deliver d l rest s).cfg = s.cfg := rfl

@[simp] theorem complete_cfg (d : DispFrame) (rest : List Frame) (s : State) : (complete d rest s).cfg = s.cfg := by
  rw [complete_frame]

theorem dispStep_cfg {d : DispFrame} {rest : List Frame} {s t : State} (h : dispStep d rest s = .next t) :
    t.cfg = s.cfg := by
  obtain ⟨-, he⟩ | ⟨-, l, -, he⟩ | ⟨-, -, he⟩ | ⟨-, -, he⟩ := dispStep_cases d rest s <;>
    cases he.symm.trans h <;> simp

theorem seqStep_cfg {s t : State} (h : seqStep s = .next t) : t.cfg = s.cfg := by
  unfold seqStep at h
  split at h
  · split_ifs at h <;> cases h <;> simp
  · cases h
    simp
  · exact dispStep_cfg h

/-! ### Every move keeps it -/

/-- Settles O53 (00_scope.md R7), by the agent that moves: tick, reset, a word taken, the sequencer with its move used
up, the sequencer while a word waits. -/
theorem configurationIsFixed : Obligations.ConfigurationIsFixed := by
  intro s t h
  obtain ⟨-, he⟩ | ⟨-, he⟩ | ⟨w, -, -, he⟩ | ⟨-, he⟩ | ⟨w, -, -, he⟩ := step_cases s
  · cases he.symm.trans h
    simp
  · cases he.symm.trans h
    simp
  · exact (takeWord_cfg (he.symm.trans h)).trans (dropInput_cfg s)
  · exact (seqStep_cfg (he.symm.trans h)).trans (dropInput_cfg s)
  · exact (seqStep_cfg (he.symm.trans h)).trans (holdInput_cfg s)

end Sys2Proof.Machine

/-! ### The parameters are in their ranges (00_scope.md R7) -/

namespace Sys2Proof

/-- Bus addresses at different offsets below 128 from one address are different. -/
theorem add_ofNat_ne_add_ofNat (a : BitVec 7) {m n : Nat} (hm : m < 128) (hn : n < 128) (hne : m ≠ n) :
    a + BitVec.ofNat 7 m ≠ a + BitVec.ofNat 7 n := by
  intro h
  have hmn : m % 128 = n % 128 := by simpa using congrArg BitVec.toNat (BitVec.add_right_inj a |>.mp h)
  omega

theorem ne_add_ofNat (a : BitVec 7) {n : Nat} (h0 : 0 < n) (hn : n < 128) : a ≠ a + BitVec.ofNat 7 n := by
  simpa using add_ofNat_ne_add_ofNat a (m := 0) (by omega) hn (by omega)

theorem Params.adcBits_range (p : Params) : 12 ≤ p.adcBits ∧ p.adcBits ≤ 16 := by
  unfold Params.adcBits
  omega

theorem Params.subCapacity_range (p : Params) : 1 ≤ p.subCapacity ∧ p.subCapacity ≤ 4095 := by
  unfold Params.subCapacity
  omega

theorem Params.three_le_maxDepth (p : Params) : 3 ≤ p.maxDepth := Nat.le_add_right _ _

theorem Params.expAddrA_ne_expAddrB (p : Params) : p.expAddrA ≠ p.expAddrB :=
  ne_add_ofNat _ (by omega) (by omega)

/-- The offset of C from A is one of 1..127. -/
theorem Params.expAddrA_ne_expAddrC (p : Params) : p.expAddrA ≠ p.expAddrC := by
  unfold Params.expAddrC
  split_ifs <;> exact ne_add_ofNat _ (by omega) (by omega)

/-- The offset of C from A skips the offset of B. -/
theorem Params.expAddrB_ne_expAddrC (p : Params) : p.expAddrB ≠ p.expAddrC := by
  unfold Params.expAddrB Params.expAddrC
  split_ifs <;> exact add_ofNat_ne_add_ofNat _ (by omega) (by omega) (by omega)

/-- Settles O9 (00_scope.md R7): the ranges are those of the offsets `Params` holds. -/
theorem parametersInRange : Obligations.ParametersInRange := by
  refine ⟨fun p => ?_, rfl, rfl⟩
  obtain ⟨hadcLo, hadcHi⟩ := p.adcBits_range
  obtain ⟨hsubLo, hsubHi⟩ := p.subCapacity_range
  exact ⟨hadcLo, hadcHi, hsubLo, hsubHi, p.three_le_maxDepth, p.expAddrA_ne_expAddrB, p.expAddrA_ne_expAddrC,
    p.expAddrB_ne_expAddrC⟩

end Sys2Proof
end

section
/-! SUPPORT. Maps of the state that a command, or any step of the sequencer, cannot tell from the identity: what each
operation does on the mapped state is the map of what it does on the state. One argument serves the traces (10_state.md
R32), the caches (R26) and the moves to come (R35). -/

namespace Sys2Proof.Machine

/-- The outcome with its next state, if it has one, mapped. -/
def mapNext (f : State → State) : Host.Outcome State Fault Refusal → Host.Outcome State Fault Refusal
  | .next t => .next (f t)
  | .fault r => .fault r
  | .refused r => .refused r

@[simp] theorem mapNext_next (f : State → State) (t : State) : mapNext f (.next t) = .next (f t) := rfl
@[simp] theorem mapNext_fault (f : State → State) (r : Fault) : mapNext f (.fault r) = .fault r := rfl
@[simp] theorem mapNext_refused (f : State → State) (r : Refusal) : mapNext f (.refused r) = .refused r := rfl

/-- The map keeps every field a command reads and commutes with every update a command makes. -/
structure HiddenFromCommands (f : State → State) : Prop where
  cfg : ∀ s, (f s).cfg = s.cfg := by intros; rfl
  registry : ∀ s, (f s).registry = s.registry := by intros; rfl
  tickPending : ∀ s, (f s).tickPending = s.tickPending := by intros; rfl
  stack : ∀ s, (f s).stack = s.stack := by intros; rfl
  draws : ∀ s, (f s).draws = s.draws := by intros; rfl
  drawCount : ∀ s, (f s).drawCount = s.drawCount := by intros; rfl
  setRegistry : ∀ r s, setRegistry r (f s) = f (setRegistry r s) := by intros; rfl
  setTickPending : ∀ b s, setTickPending b (f s) = f (setTickPending b s) := by intros; rfl
  setStack : ∀ st s, setStack st (f s) = f (setStack st s) := by intros; rfl
  emitResp : ∀ w s, emitResp w (f s) = f (emitResp w s) := by intros; rfl
  emitDeliv : ∀ r s, emitDeliv r (f s) = f (emitDeliv r s) := by intros; rfl
  emitLog : ∀ r s, emitLog r (f s) = f (emitLog r s) := by intros; rfl
  emitDev : ∀ rs s, emitDev rs (f s) = f (emitDev rs s) := by intros; rfl
  dropDraw : ∀ s, dropDraw (f s) = f (dropDraw s) := by intros; rfl

/-- So it does for the sequencer, which reads and writes the caches too. -/
structure HiddenFromSequencer (f : State → State) : Prop extends HiddenFromCommands f where
  dcache : ∀ s, (f s).dcache = s.dcache := by intros; rfl
  acache : ∀ s, (f s).acache = s.acache := by intros; rfl
  setDcache : ∀ i e s, setDcache i e (f s) = f (setDcache i e s) := by intros; rfl
  setAcache : ∀ i e s, setAcache i e (f s) = f (setAcache i e s) := by intros; rfl

namespace HiddenFromCommands

variable {f : State → State} (hf : HiddenFromCommands f)
include hf

/-! ### Shared operations -/

theorem nextDraw (s : State) : nextDraw (f s) = nextDraw s := by
  simp [Machine.nextDraw, hf.draws, hf.drawCount]

theorem respond (st : Status) (count : BitVec 12) (data : Value) (s : State) :
    respond st count data (f s) = f (respond st count data s) := hf.emitResp _ s

theorem raise (b : Bool) (c : Condition) (s : State) : raise b c (f s) = f (raise b c s) := by
  unfold Machine.raise
  split <;> simp [hf.emitLog, hf.respond]

theorem devRead (d : Device) (idx : Nat) (s : State) : devRead d idx (f s) = f (devRead d idx s) := by
  simp [Machine.devRead, hf.nextDraw, hf.dropDraw, hf.emitDev]

theorem devWrite (d : Device) (idx : Nat) (b : Bit) (s : State) : devWrite d idx b (f s) = f (devWrite d idx b s) := by
  simp [Machine.devWrite, hf.nextDraw, hf.dropDraw, hf.emitDev]

theorem devMode (d : Device) (idx : Nat) (m : Mode) (s : State) : devMode d idx m (f s) = f (devMode d idx m s) := by
  simp [Machine.devMode, hf.nextDraw, hf.dropDraw, hf.emitDev]

theorem muxAnswer (ch : Channel) (s : State) : muxAnswer ch (f s) = muxAnswer ch s := by
  simp [Machine.muxAnswer, hf.nextDraw, hf.cfg]

theorem muxRead (ch : Channel) (s : State) : muxRead ch (f s) = f (muxRead ch s) := by
  unfold Machine.muxRead
  rw [hf.cfg]
  split
  · rfl
  · simp [hf.nextDraw, hf.dropDraw, hf.emitDev]

theorem adcRead (c : Nat) (s : State) : adcRead c (f s) = f (adcRead c s) := by
  simp [Machine.adcRead, hf.cfg, hf.nextDraw, hf.dropDraw, hf.emitDev]

theorem publish (k : Key) (v : Value) (o : Origin) (s : State) : publish k v o (f s) = f (publish k v o s) := by
  simp [Machine.publish, snapshot_congr (hf.registry s), hf.stack, hf.emitLog, hf.setStack]

theorem tickIn (s : State) : tickIn (f s) = f (tickIn s) := by
  unfold Machine.tickIn
  rw [hf.tickPending]
  split <;> simp [hf.raise, hf.setTickPending]

theorem accepting (s : State) : accepting (f s) = accepting s := by
  simp [Machine.accepting, hf.stack]

/-! ### Commands -/

theorem execTick (s : State) : execTick (f s) = mapNext f (execTick s) := by
  simp [Machine.execTick, hf.tickIn, hf.respond]

theorem execSub (k : Key) (l : Listener) (s : State) : execSub k l (f s) = mapNext f (execSub k l s) := by
  simp only [Machine.execSub, hf.registry, hf.cfg, mapNext_next]
  split_ifs <;> simp [hf.raise, hf.setRegistry, hf.respond]

theorem execUnsub (k : Key) (l : Listener) (s : State) : execUnsub k l (f s) = mapNext f (execUnsub k l s) := by
  simp only [Machine.execUnsub, hf.registry, mapNext_next]
  split_ifs <;> simp [hf.raise, hf.setRegistry, hf.respond]

theorem execPub (k : Key) (v : Value) (s : State) : execPub k v (f s) = mapNext f (execPub k v s) := by
  simp only [Machine.execPub, hf.stack, hf.cfg, mapNext_next]
  split_ifs <;> simp [hf.raise, hf.publish]

theorem execDread (a : Addr) (s : State) : execDread a (f s) = mapNext f (execDread a s) := by
  simp only [Machine.execDread, hf.nextDraw, mapNext_next]
  cases routeD a with
  | dev d idx => cases levelOf (Machine.nextDraw s) <;> simp [hf.devRead, hf.respond, hf.raise]
  | reserved => simp [hf.respond]
  | outOfRange => simp [hf.raise]

theorem execDwrite (a : Addr) (b : Bit) (s : State) : execDwrite a b (f s) = mapNext f (execDwrite a b s) := by
  simp only [Machine.execDwrite, hf.nextDraw, mapNext_next]
  cases routeD a with
  | dev d idx => cases doneOf (Machine.nextDraw s) <;> simp [hf.devWrite, hf.respond, hf.raise]
  | reserved => simp [hf.respond]
  | outOfRange => simp [hf.raise]

theorem areadAnswer (a : Addr) (r : Answer 16) (s : State) : areadAnswer a r (f s) = f (areadAnswer a r s) := by
  cases r <;> simp [Machine.areadAnswer, hf.respond, hf.raise]

theorem execAread (a : Addr) (s : State) : execAread a (f s) = mapNext f (execAread a s) := by
  simp only [Machine.execAread, hf.nextDraw, hf.muxAnswer, hf.cfg, mapNext_next]
  cases routeA a with
  | mux ch => simp [hf.muxRead, hf.areadAnswer]
  | adc c => simp [hf.adcRead, hf.areadAnswer]
  | outOfRange => simp [hf.raise]

theorem execSetmode (a : Addr) (m : Mode) (s : State) : execSetmode a m (f s) = mapNext f (execSetmode a m s) := by
  simp only [Machine.execSetmode, hf.nextDraw, mapNext_next]
  cases routeD a with
  | dev d idx => cases doneOf (Machine.nextDraw s) <;> simp [hf.devMode, hf.respond, hf.raise]
  | reserved => simp [hf.respond]
  | outOfRange => simp [hf.raise]

theorem execAck (b : Bit) (s : State) : execAck b (f s) = mapNext f (execAck b s) := by
  unfold Machine.execAck
  rw [hf.stack]
  repeat' split
  all_goals simp [hf.raise, hf.setStack]

/-- A command does on the mapped state what it does on the state. -/
theorem exec (i : Instr) (s : State) : exec i (f s) = mapNext f (exec i s) := by
  cases i with
  | tick => exact hf.execTick s
  | sub k l => exact hf.execSub k l s
  | unsub k l => exact hf.execUnsub k l s
  | pub k v => exact hf.execPub k v s
  | dread a => exact hf.execDread a s
  | dwrite a b => exact hf.execDwrite a b s
  | aread a => exact hf.execAread a s
  | setmode a m => exact hf.execSetmode a m s
  | ack b => exact hf.execAck b s

theorem takeWord (w : Word) (s : State) : takeWord w (f s) = mapNext f (takeWord w s) := by
  unfold Machine.takeWord
  split
  · exact hf.exec _ s
  · simp [hf.raise]

/-! ### The sequencer's steps that use no cache -/

theorem passStart (s : State) : passStart (f s) = f (passStart s) := by
  simp [Machine.passStart, hf.setTickPending, hf.setStack, hf.emitLog]

theorem passPublish (c : Cursor) (e : Event) (more : List Event) (rest : List Frame) (s : State) :
    passPublish c e more rest (f s) = f (passPublish c e more rest s) := by
  simp [Machine.passPublish, hf.setStack, hf.publish]

theorem passEnd (rest : List Frame) (s : State) : passEnd rest (f s) = f (passEnd rest s) := by
  simp [Machine.passEnd, hf.setStack, hf.emitLog]

theorem deliver (d : DispFrame) (l : Listener) (rest : List Frame) (s : State) :
    deliver d l rest (f s) = f (deliver d l rest s) := by
  simp [Machine.deliver, hf.emitDeliv, hf.setStack]

theorem complete (d : DispFrame) (rest : List Frame) (s : State) : complete d rest (f s) = f (complete d rest s) := by
  unfold Machine.complete
  split <;> simp [hf.setStack, hf.respond]

theorem dispStep (d : DispFrame) (rest : List Frame) (s : State) :
    dispStep d rest (f s) = mapNext f (dispStep d rest s) := by
  unfold Machine.dispStep
  repeat' split
  all_goals simp [hf.deliver, hf.complete]

end HiddenFromCommands

namespace HiddenFromSequencer

variable {f : State → State} (hf : HiddenFromSequencer f)
include hf

theorem digitalSampled (i : Fin 64) (rest : List Frame) (r : Answer 1) (s : State) :
    digitalSampled i rest r (f s) = f (digitalSampled i rest r s) := by
  simp only [Machine.digitalSampled, hf.dcache, hf.cfg]
  cases r with
  | fail => simp [hf.raise, hf.setStack]
  | ok b =>
    cases s.dcache[i] with
    | empty => simp [hf.setDcache, hf.setStack]
    | held c => by_cases hcb : c = b <;> simp [hcb, hf.setDcache, hf.setStack]

theorem sampleDigital (i : Fin 64) (rest : List Frame) (s : State) :
    sampleDigital i rest (f s) = f (sampleDigital i rest s) := by
  simp only [Machine.sampleDigital, hf.nextDraw, hf.devRead, hf.digitalSampled]
  split <;> rfl

theorem analogSampled (i : Fin 18) (rest : List Frame) (r : Answer 16) (s : State) :
    analogSampled i rest r (f s) = f (analogSampled i rest r s) := by
  simp only [Machine.analogSampled, hf.acache]
  cases r with
  | fail => simp [hf.raise, hf.setStack]
  | ok v =>
    cases s.acache[i] with
    | empty => simp [hf.setAcache, hf.setStack]
    | held u => by_cases huv : u = v <;> simp [huv, hf.setAcache, hf.setStack]

theorem sampleAnalog (i : Fin 18) (rest : List Frame) (s : State) :
    sampleAnalog i rest (f s) = f (sampleAnalog i rest s) := by
  simp only [Machine.sampleAnalog, hf.cfg, hf.nextDraw, hf.muxAnswer, hf.muxRead, hf.adcRead, hf.analogSampled]
  split <;> rfl

theorem passStep (p : PassFrame) (rest : List Frame) (s : State) : passStep p rest (f s) = f (passStep p rest s) := by
  unfold Machine.passStep
  split
  · exact hf.passPublish _ _ _ _ s
  · split
    · exact hf.sampleDigital _ _ s
    · exact hf.sampleAnalog _ _ s
    · exact hf.passEnd _ s

/-- A step of the sequencer does on the mapped state what it does on the state. -/
theorem seqStep (s : State) : seqStep (f s) = mapNext f (seqStep s) := by
  unfold Machine.seqStep
  rw [hf.stack, hf.tickPending]
  split
  · split <;> simp [hf.passStart]
  · simp [hf.passStep]
  · exact hf.dispStep _ _ s

end HiddenFromSequencer

/-! ### The three maps -/

theorem hiddenFromCommands_withCaches (d : Vector (CacheEntry 1) 64) (a : Vector (CacheEntry 16) 18) :
    HiddenFromCommands (withCaches d a) where

theorem hiddenFromSequencer_afterTracesOf (u : State) : HiddenFromSequencer (afterTracesOf u) where
  emitResp _ _ := by simp [afterTracesOf, emitResp]
  emitDeliv _ _ := by simp [afterTracesOf, emitDeliv]
  emitLog _ _ := by simp [afterTracesOf, emitLog]
  emitDev _ _ := by simp [afterTracesOf, emitDev]

/-- The state with other moves to come. -/
def withInputs (is : List Input) (s : State) : State := { s with inputs := is }

theorem hiddenFromSequencer_withInputs (is : List Input) : HiddenFromSequencer (withInputs is) where

/-! ### Commands and caches (10_state.md R26) -/

/-- What commutes with every change of the caches leaves them as they are: change them to what they are. -/
theorem caches_eq_of_commutes {op : State → Host.Outcome State Fault Refusal}
    (hop : ∀ d a s, op (withCaches d a s) = mapNext (withCaches d a) (op s)) {s t : State} (h : op s = .next t) :
    t.dcache = s.dcache ∧ t.acache = s.acache := by
  have hself : op s = mapNext (withCaches s.dcache s.acache) (op s) := hop s.dcache s.acache s
  rw [h, mapNext_next] at hself
  injection hself with ht
  exact ⟨(congrArg State.dcache ht :), (congrArg State.acache ht :)⟩

theorem takeWord_caches {w : Word} {s t : State} (h : takeWord w s = .next t) :
    t.dcache = s.dcache ∧ t.acache = s.acache :=
  caches_eq_of_commutes (fun d a => (hiddenFromCommands_withCaches d a).takeWord w) h

theorem dispStep_caches {d : DispFrame} {rest : List Frame} {s t : State} (h : dispStep d rest s = .next t) :
    t.dcache = s.dcache ∧ t.acache = s.acache :=
  caches_eq_of_commutes (fun dc ac => (hiddenFromCommands_withCaches dc ac).dispStep d rest) h

/-- Settles O51 (10_state.md R26): the caches are hidden from every command. -/
theorem commandsAreBlindToCaches : Obligations.CommandsAreBlindToCaches := by
  intro i s t d a h
  have hblind := fun d a => (hiddenFromCommands_withCaches d a).exec i
  obtain ⟨hd, ha⟩ := caches_eq_of_commutes hblind h
  exact ⟨hd, ha, by rw [hblind, h, mapNext_next]⟩

/-! ### The sequencer and the caches (R26) -/

/-- A digital entry changes only in the sample step of its own address. -/
theorem passStep_dcache {p : PassFrame} {rest : List Frame} {s : State} {j : Fin 64}
    (hj : (passStep p rest s).dcache[j] ≠ s.dcache[j]) : p = ⟨.digital j, []⟩ := by
  obtain ⟨e, more, -, he⟩ | ⟨i, hp, he⟩ | ⟨i, -, he⟩ | ⟨-, he⟩ := passStep_cases p rest s <;> rw [he] at hj
  · exact absurd rfl hj
  · by_cases hij : j = i
    · rw [hp, hij]
    · obtain ⟨r, u, hr, hu, -⟩ := sampleDigital_cases i rest s
      rw [hr, digitalSampled_other hij, hu] at hj
      exact absurd rfl hj
  · obtain ⟨r, u, hr, hu, -⟩ := sampleAnalog_cases i rest s
    rw [hr, analogSampled_frame, hu] at hj
    exact absurd rfl hj
  · exact absurd rfl hj

/-- An analog entry likewise. -/
theorem passStep_acache {p : PassFrame} {rest : List Frame} {s : State} {j : Fin 18}
    (hj : (passStep p rest s).acache[j] ≠ s.acache[j]) : p = ⟨.analog j, []⟩ := by
  obtain ⟨e, more, -, he⟩ | ⟨i, -, he⟩ | ⟨i, hp, he⟩ | ⟨-, he⟩ := passStep_cases p rest s <;> rw [he] at hj
  · exact absurd rfl hj
  · obtain ⟨r, u, hr, hu, -⟩ := sampleDigital_cases i rest s
    rw [hr, digitalSampled_frame, hu] at hj
    exact absurd rfl hj
  · by_cases hij : j = i
    · rw [hp, hij]
    · obtain ⟨r, u, hr, hu, -⟩ := sampleAnalog_cases i rest s
      rw [hr, analogSampled_other hij, hu] at hj
      exact absurd rfl hj
  · exact absurd rfl hj

/-- The sequencer changes a cache entry only with that entry's sample frame on top. -/
theorem seqStep_caches {s t : State} (h : seqStep s = .next t) :
    (∀ j : Fin 64, t.dcache[j] ≠ s.dcache[j] → ∃ rest, s.stack = .pass ⟨.digital j, []⟩ :: rest) ∧
    (∀ j : Fin 18, t.acache[j] ≠ s.acache[j] → ∃ rest, s.stack = .pass ⟨.analog j, []⟩ :: rest) := by
  unfold seqStep at h
  split at h
  case h_1 =>
    have hkeep : t.dcache = s.dcache ∧ t.acache = s.acache := by
      split_ifs at h <;> cases h <;> exact ⟨rfl, rfl⟩
    simp [hkeep]
  case h_2 p rest hs =>
    cases h
    exact ⟨fun j hj => ⟨rest, by rw [hs, passStep_dcache hj]⟩, fun j hj => ⟨rest, by rw [hs, passStep_acache hj]⟩⟩
  case h_3 d rest hs => simp [dispStep_caches h]

/-- Settles O50 (10_state.md R26), by the agent that moves: a tick and a word leave the caches, the sequencer changes
the entry it samples. -/
theorem onlySamplesAndResetChangeCaches : Obligations.OnlySamplesAndResetChangeCaches := by
  intro s t h hreset
  obtain ⟨-, he⟩ | ⟨hn, -⟩ | ⟨w, -, -, he⟩ | ⟨hn, he⟩ | ⟨w, hn, -, he⟩ := step_cases s
  · cases he.symm.trans h
    simp [tickIn_eq]
  · exact absurd hn hreset
  · simp [takeWord_caches (he.symm.trans h)]
  all_goals
    obtain ⟨hd, ha⟩ := seqStep_caches (he.symm.trans h)
    exact ⟨fun j hj => ⟨by simp [hn], hd j hj⟩, fun j hj => ⟨by simp [hn], ha j hj⟩⟩

/-! ### Traces (10_state.md R32) -/

/-- A step on a state with traces put before its own is that step, with those traces before what it leaves. -/
theorem step_afterTracesOf (u s : State) : step (afterTracesOf u s) = mapNext (afterTracesOf u) (step s) := by
  have hf := hiddenFromSequencer_afterTracesOf u
  have hnext : nextInput (afterTracesOf u s) = nextInput s := rfl
  have hdrop : dropInput (afterTracesOf u s) = afterTracesOf u (dropInput s) := rfl
  have hhold : holdInput (afterTracesOf u s) = afterTracesOf u (holdInput s) := rfl
  unfold step moveStep
  rw [hnext, hdrop, hhold, hf.accepting]
  cases nextInput s with
  | seq => exact hf.seqStep _
  | tick => simp [hf.tickIn]
  | reset => rfl
  | host w =>
    cases accepting s
    · simpa using hf.seqStep _
    · simpa using hf.takeWord w _

theorem afterTracesOf_withoutTraces (s : State) : afterTracesOf s (withoutTraces s) = s := by
  simp [afterTracesOf, withoutTraces]

/-- Settles O52 (10_state.md R32): the state is its own traces put before the state without any. -/
theorem tracesAreObservations : Obligations.TracesAreObservations := by
  intro s
  have h := step_afterTracesOf s (withoutTraces s)
  rw [afterTracesOf_withoutTraces] at h
  cases hstep : step (withoutTraces s) <;> simpa [hstep] using h

/-! ### The moves to come (10_state.md R35) -/

/-- The sequencer does not touch the moves to come: they are hidden from it, so change them to what they are. -/
theorem seqStep_inputs {s t : State} (h : seqStep s = .next t) : t.inputs = s.inputs := by
  have hself : seqStep s = mapNext (withInputs s.inputs) (seqStep s) :=
    (hiddenFromSequencer_withInputs s.inputs).seqStep s
  rw [h, mapNext_next] at hself
  injection hself with ht
  exact (congrArg State.inputs ht :)

/-- Settles O44 (10_state.md R35): the waiting word is hidden from the sequencer. -/
theorem wordWaitsUntilAccepting : Obligations.WordWaitsUntilAccepting := by
  intro s w more ha hin
  have hwait : step s = mapNext (withInputs (.host w :: more)) (seqStep { s with inputs := more }) := by
    rw [step_host_waits hin ha, ← (hiddenFromSequencer_withInputs (.host w :: more)).seqStep, withInputs, ← hin]
  rw [step_seq (s := { s with inputs := .seq :: more }) rfl]
  cases hstep : seqStep { s with inputs := more } with
  | next t => exact ⟨seqStep_inputs hstep, by rw [hwait, hstep]; rfl⟩
  | fault r => rw [hwait, hstep]; rfl
  | refused r => rw [hwait, hstep]; rfl

/-! ### A word taken (30_encoding.md R90) -/

theorem takeWord_of_decode {w : Word} {i : Instr} (h : decode w = .ok i) (s : State) : takeWord w s = exec i s := by
  simp [takeWord, h]

/-- Settles O43 (30_encoding.md R90). -/
theorem stepRunsDecodedCommand : Obligations.StepRunsDecodedCommand := by
  intro s w i more ha hin hw
  rw [step_host hin ha, takeWord_of_decode hw]

end Sys2Proof.Machine
end

section
/-! SUPPORT. The invariant of the block (10_state.md R25, R27, R30, R31, R34; 41_sampling.md R151): what each update
asks for to keep it, then one lemma per command and per step of the sequencer. -/

namespace Sys2Proof.Machine

/-! ### The reset values (10_state.md section 5) -/

/-- Settles O20 (10_state.md section 5). -/
theorem resetValues : Obligations.ResetValues := by
  refine ⟨fun i => ?_, fun i => ?_, rfl, rfl, rfl, rfl, rfl, rfl, rfl⟩ <;>
    simp [State.reset, State.resetWith]

/-- Emptying the block's state gives the invariant (70_reset_and_hazards.md R260). -/
theorem blockInv_resetBlock (s : State) : BlockInv (resetBlock s) where
  registryNodup := List.nodup_nil
  registryCap := Nat.zero_le _
  depth := Nat.zero_le _
  frames := rfl
  samples i := by simp [sampleFits]
  reserved47 := by simp
  reserved48 := by simp

/-- Settles O47 (10_state.md R34, R260): the reset state is a fixed point of reset. -/
theorem resetMeetsInvariant : Obligations.ResetMeetsInvariant :=
  blockInv_resetBlock State.reset

/-! ### What each update asks for -/

/-- The invariant speaks of the configuration, the registry, the stack and the caches only. -/
theorem BlockInv.congr {s t : State} (h : BlockInv s) (hcfg : t.cfg = s.cfg) (hreg : t.registry = s.registry)
    (hstack : t.stack = s.stack) (hd : t.dcache = s.dcache) (ha : t.acache = s.acache) : BlockInv t where
  registryNodup := by simpa only [hreg] using h.registryNodup
  registryCap := by simpa only [hreg, hcfg] using h.registryCap
  depth := by simpa only [hstack, hcfg] using h.depth
  frames := by simpa only [hstack, hcfg] using h.frames
  samples := by simpa only [ha, hcfg] using h.samples
  reserved47 := by simpa only [hd] using h.reserved47
  reserved48 := by simpa only [hd] using h.reserved48

/-! ### Legal stacks, frame by frame (R31, R34) -/

theorem stackLegal_pass {cfg : Params} {p : PassFrame} {rest : List Frame} :
    stackLegal cfg (.pass p :: rest) = true ↔
      rest = [] ∧ p.pending.length ≤ 2 ∧ ∀ e ∈ p.pending, passEventLegal cfg e.key e.value = true := by
  simp [stackLegal, and_assoc]

theorem stackLegal_disp {cfg : Params} {d : DispFrame} {rest : List Frame} :
    stackLegal cfg (.disp d :: rest) = true ↔
      dispLegal cfg d = true ∧ belowLegal d rest = true ∧ stackLegal cfg rest = true := by
  simp [stackLegal, and_assoc]

theorem dispLegal_iff {cfg : Params} {d : DispFrame} :
    dispLegal cfg d = true ↔
      d.pos ≤ d.snap.length ∧ (d.sent = true → d.pos < d.snap.length) ∧ d.snap.Nodup ∧
        d.snap.length ≤ cfg.subCapacity ∧ (d.origin = .host ∨ passEventLegal cfg d.key d.value = true) := by
  cases hs : d.sent <;> simp [dispLegal, hs, and_assoc]

/-- What lies below a legal frame is legal. -/
theorem stackLegal_tail {cfg : Params} {f : Frame} {rest : List Frame} (h : stackLegal cfg (f :: rest) = true) :
    stackLegal cfg rest = true := by
  cases f with
  | pass p =>
    obtain ⟨rfl, -, -⟩ := stackLegal_pass.1 h
    rfl
  | disp d =>
    obtain ⟨-, -, hrest⟩ := stackLegal_disp.1 h
    exact hrest

/-- On an accepting block a `PUB` may put its frame (R34.3). -/
theorem belowLegal_host_of_accepting {s : State} (ha : accepting s = true) {d : DispFrame} (hd : d.origin = .host) :
    belowLegal d s.stack = true := by
  unfold accepting at ha
  cases hs : s.stack with
  | nil => simp [belowLegal, hd]
  | cons f rest =>
    cases f with
    | pass p => simp [hs] at ha
    | disp e => simpa [hs, belowLegal, hd] using ha

/-! ### What the pass may publish (30_encoding.md R83, 41_sampling.md R146 to R151) -/

theorem sampledPin_digitalAddr {i : Fin 64} (h : ¬(i = 46 ∨ i = 47)) : sampledPin (digitalAddr i) = true := by
  revert i; decide

theorem analogPin_analogAddr (i : Fin 18) : analogPin (analogAddr i) = true := by
  revert i; decide

theorem edgeKind_ne_three (cfg : Params) (b : Bit) : edgeKind cfg b ≠ 3#4 := by
  unfold edgeKind
  split_ifs <;> decide

/-- Both events of a level change of a sampled pin. -/
theorem digitalEvents_legal (cfg : Params) {a : Addr} (b : Bit) (ha : sampledPin a = true) :
    ∀ e ∈ digitalEvents cfg a b, passEventLegal cfg e.key e.value = true := by
  have hlevel : b.toNat % 65536 ≤ 1 := by omega
  simp [digitalEvents, passEventLegal, ha, edgeKind_ne_three, hlevel]

theorem analogEvents_legal {cfg : Params} {a : Addr} {v : Value} (ha : analogPin a = true)
    (hv : v.toNat < 2 ^ cfg.adcBits) : ∀ e ∈ analogEvents a v, passEventLegal cfg e.key e.value = true := by
  simp [analogEvents, passEventLegal, ha, hv]

@[simp] theorem raise_stack (b : Bool) (c : Condition) (s : State) : (raise b c s).stack = s.stack := by
  rw [raise_eq]

namespace BlockInv

variable {s : State} (h : BlockInv s)
include h

theorem dropInput : BlockInv (dropInput s) := h.congr rfl rfl rfl rfl rfl

theorem holdInput : BlockInv (holdInput s) := h.congr rfl rfl rfl rfl rfl

theorem emitLog (r : BitVec 64) : BlockInv (emitLog r s) := h.congr rfl rfl rfl rfl rfl

theorem emitDeliv (r : BitVec 48) : BlockInv (emitDeliv r s) := h.congr rfl rfl rfl rfl rfl

theorem setTickPending (b : Bool) : BlockInv (setTickPending b s) := h.congr rfl rfl rfl rfl rfl

theorem respond (st : Status) (count : BitVec 12) (data : Value) : BlockInv (respond st count data s) :=
  h.congr rfl rfl rfl rfl rfl

theorem raise (b : Bool) (c : Condition) : BlockInv (raise b c s) := by
  rw [raise_eq]
  exact h.congr rfl rfl rfl rfl rfl

theorem devRead (d : Device) (idx : Nat) : BlockInv (devRead d idx s) := h.congr rfl rfl rfl rfl rfl

theorem devWrite (d : Device) (idx : Nat) (b : Bit) : BlockInv (devWrite d idx b s) := h.congr rfl rfl rfl rfl rfl

theorem devMode (d : Device) (idx : Nat) (m : Mode) : BlockInv (devMode d idx m s) := h.congr rfl rfl rfl rfl rfl

theorem muxRead (ch : Channel) : BlockInv (muxRead ch s) := by
  rw [muxRead_frame]
  exact h.congr rfl rfl rfl rfl rfl

theorem adcRead (c : Nat) : BlockInv (adcRead c s) := h.congr rfl rfl rfl rfl rfl

theorem tickIn : BlockInv (tickIn s) := by
  rw [tickIn_eq]
  exact h.congr rfl rfl rfl rfl rfl

theorem setRegistry {r : List SubEntry} (hnodup : r.Nodup) (hcap : r.length ≤ s.cfg.subCapacity) :
    BlockInv (setRegistry r s) :=
  { h with registryNodup := hnodup, registryCap := hcap }

theorem setStack {st : List Frame} (hdepth : st.length ≤ s.cfg.maxDepth) (hframes : stackLegal s.cfg st = true) :
    BlockInv (setStack st s) :=
  { h with depth := hdepth, frames := hframes }

/-- A level may be written anywhere but a 1 into a reserved entry (41_sampling.md R151). -/
theorem setDcache {i : Fin 64} {e : CacheEntry 1} (he : i = 46 ∨ i = 47 → e ≠ .held 1) : BlockInv (setDcache i e s) :=
  { h with
    reserved47 := by
      simp only [setDcache_dcache, Vector.getElem_set]
      split_ifs with hi
      · exact he (.inl (Fin.ext hi))
      · exact h.reserved47
    reserved48 := by
      simp only [setDcache_dcache, Vector.getElem_set]
      split_ifs with hi
      · exact he (.inr (Fin.ext hi))
      · exact h.reserved48 }

/-- A reserved entry is empty or holds a 0 (41_sampling.md R151). -/
theorem reserved_entry {i : Fin 64} (hi : i = 46 ∨ i = 47) : s.dcache[i] = .empty ∨ s.dcache[i] = .held 0 := by
  have hne : s.dcache[i] ≠ .held 1 := by
    obtain rfl | rfl := hi
    · exact h.reserved47
    · exact h.reserved48
  cases he : s.dcache[i] with
  | empty => exact .inl rfl
  | held c =>
    obtain rfl | rfl := c.eq_zero_or_eq_one
    · exact .inr rfl
    · exact absurd he hne

/-- A sample that fits may be written anywhere (10_state.md R25). -/
theorem setAcache {i : Fin 18} {e : CacheEntry 16} (he : sampleFits s.cfg e = true) : BlockInv (setAcache i e s) :=
  { h with
    samples := fun j => by
      by_cases hij : i.val = j.val
      · simpa [hij] using he
      · simpa [hij] using h.samples j }

/-! ### Changes of the stack -/

theorem frames_of_eq {st : List Frame} (hs : s.stack = st) : stackLegal s.cfg st = true := hs ▸ h.frames

/-- The top frame goes. -/
theorem pop {f : Frame} {rest : List Frame} (hs : s.stack = f :: rest) : BlockInv (Machine.setStack rest s) := by
  have hdepth := h.depth
  rw [hs] at hdepth
  exact h.setStack (Nat.le_of_succ_le hdepth) (stackLegal_tail (h.frames_of_eq hs))

/-- A pass frame gets another cursor and other events of the pass. -/
theorem setPass {p : PassFrame} {rest : List Frame} {c : Cursor} {pending : List Event}
    (hs : s.stack = .pass p :: rest) (hlen : pending.length ≤ 2)
    (hlegal : ∀ e ∈ pending, passEventLegal s.cfg e.key e.value = true) :
    BlockInv (Machine.setStack (.pass ⟨c, pending⟩ :: rest) s) := by
  obtain ⟨hrest, -, -⟩ := stackLegal_pass.1 (h.frames_of_eq hs)
  exact h.setStack (by simpa [hs] using h.depth) (stackLegal_pass.2 ⟨hrest, hlen, hlegal⟩)

/-- A dispatch frame moves on within its snapshot (10_state.md R31). -/
theorem setDisp {d : DispFrame} {rest : List Frame} {pos : Nat} {sent : Bool} (hs : s.stack = .disp d :: rest)
    (hpos : pos ≤ d.snap.length) (hsent : sent = true → pos < d.snap.length) :
    BlockInv (Machine.setStack (.disp { d with pos := pos, sent := sent } :: rest) s) := by
  obtain ⟨hd, hbelow, hrest⟩ := stackLegal_disp.1 (h.frames_of_eq hs)
  obtain ⟨-, -, hnodup, hcap, horigin⟩ := dispLegal_iff.1 hd
  have hd' : dispLegal s.cfg { d with pos := pos, sent := sent } = true :=
    dispLegal_iff.2 ⟨hpos, hsent, hnodup, hcap, horigin⟩
  have hbelow' : belowLegal { d with pos := pos, sent := sent } rest = true := by
    cases rest with
    | nil => exact hbelow
    | cons f rest => cases f <;> exact hbelow
  exact h.setStack (by simpa [hs] using h.depth) (stackLegal_disp.2 ⟨hd', hbelow', hrest⟩)

theorem pos_lt_of_sent {d : DispFrame} {rest : List Frame} (hs : s.stack = .disp d :: rest) (hsent : d.sent = true) :
    d.pos < d.snap.length := by
  obtain ⟨hd, -, -⟩ := stackLegal_disp.1 (h.frames_of_eq hs)
  obtain ⟨-, hpos, -⟩ := dispLegal_iff.1 hd
  exact hpos hsent

/-- A publish pushes a legal frame: its snapshot is one of a legal registry (42_event_bus.md R183). -/
theorem publish {k : Key} {v : Value} {o : Origin} (horigin : o = .host ∨ passEventLegal s.cfg k v = true)
    (hdepth : s.stack.length < s.cfg.maxDepth)
    (hbelow : belowLegal ⟨k, v, snapshot k s, 0, false, o⟩ s.stack = true) : BlockInv (publish k v o s) := by
  have hd : dispLegal s.cfg ⟨k, v, snapshot k s, 0, false, o⟩ = true :=
    dispLegal_iff.2 ⟨Nat.zero_le _, by simp, snapshot_nodup h.registryNodup,
      (snapshot_length_le k s).trans h.registryCap, horigin⟩
  exact (h.emitLog _).setStack hdepth (stackLegal_disp.2 ⟨hd, hbelow, h.frames⟩)

/-! ### Commands keep it -/

theorem execTick {t : State} (ht : execTick s = .next t) : BlockInv t := by
  cases ht
  exact h.tickIn.respond _ _ _

/-- The new pair was not registered, and the registry was not full (42_event_bus.md R180). -/
theorem execSub {k : Key} {l : Listener} {t : State} (ht : execSub k l s = .next t) : BlockInv t := by
  cases ht
  have hcap := h.registryCap
  split_ifs with hmem hfull
  · exact h.raise _ _
  · exact h.raise _ _
  · have hnodup : (s.registry ++ [(⟨k, l⟩ : SubEntry)]).Nodup := by
      simpa using List.Nodup.concat hmem h.registryNodup
    refine (h.setRegistry hnodup ?_).respond _ _ _
    simp only [List.length_append, List.length_singleton]
    omega

theorem execUnsub {k : Key} {l : Listener} {t : State} (ht : execUnsub k l s = .next t) : BlockInv t := by
  cases ht
  split_ifs with hmem
  · refine (h.setRegistry (h.registryNodup.erase _) ?_).respond _ _ _
    exact (List.length_erase_le).trans h.registryCap
  · exact h.raise _ _

theorem execDread {a : Addr} {t : State} (ht : execDread a s = .next t) : BlockInv t := by
  cases ht
  cases routeD a with
  | dev d idx =>
    cases levelOf (nextDraw s) with
    | ok b => exact (h.devRead d idx).respond _ _ _
    | fail => exact (h.devRead d idx).raise _ _
  | reserved => exact h.respond _ _ _
  | outOfRange => exact h.raise _ _

theorem execDwrite {a : Addr} {b : Bit} {t : State} (ht : execDwrite a b s = .next t) : BlockInv t := by
  cases ht
  cases routeD a with
  | dev d idx =>
    cases doneOf (nextDraw s) with
    | ok _ => exact (h.devWrite d idx b).respond _ _ _
    | fail => exact (h.devWrite d idx b).raise _ _
  | reserved => exact h.respond _ _ _
  | outOfRange => exact h.raise _ _

theorem areadAnswer (a : Addr) (r : Answer 16) : BlockInv (areadAnswer a r s) := by
  rw [areadAnswer_frame]
  exact h.congr rfl rfl rfl rfl rfl

theorem execAread {a : Addr} {t : State} (ht : execAread a s = .next t) : BlockInv t := by
  cases ht
  cases routeA a with
  | mux ch => exact (h.muxRead ch).areadAnswer _ _
  | adc c => exact (h.adcRead c).areadAnswer _ _
  | outOfRange => exact h.raise _ _

theorem execSetmode {a : Addr} {m : Mode} {t : State} (ht : execSetmode a m s = .next t) : BlockInv t := by
  cases ht
  cases routeD a with
  | dev d idx =>
    cases doneOf (nextDraw s) with
    | ok _ => exact (h.devMode d idx m).respond _ _ _
    | fail => exact (h.devMode d idx m).raise _ _
  | reserved => exact h.respond _ _ _
  | outOfRange => exact h.raise _ _

theorem execPub {k : Key} {v : Value} {t : State} (ha : accepting s = true) (ht : execPub k v s = .next t) :
    BlockInv t := by
  cases ht
  split_ifs with hfull
  · exact h.raise _ _
  · exact h.publish (.inl rfl) (lt_of_le_of_ne h.depth hfull) (belowLegal_host_of_accepting ha rfl)

/-- An awaited ACK moves `pos` to the next listener, at most past the last (42_event_bus.md R185). -/
theorem execAck {f : Bit} {t : State} (ht : execAck f s = .next t) : BlockInv t := by
  obtain ⟨d, rest, hs, hsent, -, he⟩ | ⟨d, rest, l, hs, hsent, -, -, he⟩ | ⟨-, he⟩ | ⟨d, rest, -, -, -, he⟩ :=
    execAck_cases f s <;> cases he.symm.trans ht
  · exact h.setDisp hs (h.pos_lt_of_sent hs hsent) nofun
  · exact (h.raise _ _).setDisp (by simpa using hs) (h.pos_lt_of_sent hs hsent) nofun
  · exact h.raise _ _

/-- Every command keeps the invariant where the block takes it (10_state.md R35). -/
theorem exec {i : Instr} {t : State} (ha : accepting s = true) (ht : exec i s = .next t) : BlockInv t := by
  cases i with
  | tick => exact h.execTick ht
  | sub k l => exact h.execSub ht
  | unsub k l => exact h.execUnsub ht
  | pub k v => exact h.execPub ha ht
  | dread a => exact h.execDread ht
  | dwrite a b => exact h.execDwrite ht
  | aread a => exact h.execAread ht
  | setmode a m => exact h.execSetmode ht
  | ack f => exact h.execAck ht

theorem takeWord {w : Word} {t : State} (ha : accepting s = true) (ht : takeWord w s = .next t) : BlockInv t := by
  unfold Machine.takeWord at ht
  split at ht
  · exact h.exec ha ht
  · cases ht
    exact h.raise _ _

/-! ### The sequencer's steps keep it -/

theorem passStart : BlockInv (passStart s) := by
  refine ((h.setTickPending false).setStack ?_ ?_).emitLog _
  · have := s.cfg.three_le_maxDepth
    simp only [List.length_singleton, setTickPending_cfg]
    omega
  · simp [stackLegal_pass]

/-- A reserved address is sampled as 0 and holds nothing else, so it queues nothing (41_sampling.md R151). -/
theorem digitalSampled {i : Fin 64} {rest : List Frame} {r : Answer 1} (hs : s.stack = .pass ⟨.digital i, []⟩ :: rest)
    (hr : i = 46 ∨ i = 47 → r = .ok 0) : BlockInv (digitalSampled i rest r s) := by
  cases r with
  | fail =>
    rw [digitalSampled_fail]
    exact (h.setPass (pending := []) hs (by simp) (by simp)).emitLog _
  | ok b =>
    have hzero : i = 46 ∨ i = 47 → b = 0 := fun hi => by simpa using hr hi
    have hentry : i = 46 ∨ i = 47 → CacheEntry.held b ≠ .held 1 := fun hi => by simp [hzero hi]
    rw [digitalSampled_ok]
    refine (h.setDcache hentry).setPass hs ?_ ?_ <;> split_ifs with hold
    · simp
    · simp [digitalEvents]
    · simp
    · have hsampled : ¬(i = 46 ∨ i = 47) := fun hi => hold (hzero hi ▸ h.reserved_entry hi)
      exact digitalEvents_legal _ b (sampledPin_digitalAddr hsampled)

theorem sampleDigital {i : Fin 64} {rest : List Frame} (hs : s.stack = .pass ⟨.digital i, []⟩ :: rest) :
    BlockInv (sampleDigital i rest s) := by
  obtain ⟨r, u, he, hu, hr⟩ := sampleDigital_cases i rest s
  rw [he]
  refine digitalSampled ?_ ?_ hr <;> rw [hu]
  · exact h.congr rfl rfl rfl rfl rfl
  · exact hs

theorem analogSampled {i : Fin 18} {rest : List Frame} {r : Answer 16} (hs : s.stack = .pass ⟨.analog i, []⟩ :: rest)
    (hr : ∀ v, r = .ok v → v.toNat < 2 ^ s.cfg.adcBits) : BlockInv (analogSampled i rest r s) := by
  cases r with
  | fail =>
    rw [analogSampled_fail]
    exact (h.setPass (pending := []) hs (by simp) (by simp)).emitLog _
  | ok v =>
    have hfits : v.toNat < 2 ^ s.cfg.adcBits := hr v rfl
    rw [analogSampled_ok]
    refine (h.setAcache (e := .held v) (by simpa [sampleFits] using hfits)).setPass hs ?_ ?_ <;> split_ifs
    · simp
    · simp [analogEvents]
    · simp
    · exact analogEvents_legal (analogPin_analogAddr i) hfits

theorem sampleAnalog {i : Fin 18} {rest : List Frame} (hs : s.stack = .pass ⟨.analog i, []⟩ :: rest) :
    BlockInv (sampleAnalog i rest s) := by
  obtain ⟨r, u, he, hu, hr⟩ := sampleAnalog_cases i rest s
  rw [he]
  refine analogSampled ?_ ?_ ?_ <;> rw [hu]
  · exact h.congr rfl rfl rfl rfl rfl
  · exact hs
  · exact hr

/-- The event leaves the pending list and its frame goes on the pass frame (41_sampling.md R150). -/
theorem passPublish {c : Cursor} {e : Event} {more : List Event} {rest : List Frame}
    (hs : s.stack = .pass ⟨c, e :: more⟩ :: rest) :
    BlockInv (passPublish c e more rest s) := by
  obtain ⟨rfl, hlen, hlegal⟩ := stackLegal_pass.1 (h.frames_of_eq hs)
  obtain ⟨he, hmore⟩ := List.forall_mem_cons.1 hlegal
  have hdepth : 1 < s.cfg.maxDepth := lt_of_lt_of_le (by decide) s.cfg.three_le_maxDepth
  exact (h.setPass hs (Nat.le_of_succ_le hlen) hmore).publish (.inr he) hdepth rfl

theorem passStep {p : PassFrame} {rest : List Frame} (hs : s.stack = .pass p :: rest) :
    BlockInv (passStep p rest s) := by
  obtain ⟨e, more, hp, he⟩ | ⟨i, rfl, he⟩ | ⟨i, rfl, he⟩ | ⟨rfl, he⟩ := passStep_cases p rest s <;> rw [he]
  · exact h.passPublish (hp ▸ hs)
  · exact h.sampleDigital hs
  · exact h.sampleAnalog hs
  · exact (h.pop hs).emitLog _

theorem complete {d : DispFrame} {rest : List Frame} (hs : s.stack = .disp d :: rest) :
    BlockInv (complete d rest s) := by
  rw [complete_frame]
  exact (h.pop hs).congr rfl rfl rfl rfl rfl

theorem dispStep {d : DispFrame} {rest : List Frame} {t : State} (hs : s.stack = .disp d :: rest)
    (ht : dispStep d rest s = .next t) : BlockInv t := by
  obtain ⟨-, he⟩ | ⟨-, l, hl, he⟩ | ⟨-, -, he⟩ | ⟨-, -, he⟩ := dispStep_cases d rest s <;> cases he.symm.trans ht
  · exact h
  · obtain ⟨hpos, -⟩ := List.getElem?_eq_some_iff.1 hl
    exact (h.emitDeliv _).setDisp hs hpos.le fun _ => hpos
  · exact h.complete hs

theorem seqStep {t : State} (ht : seqStep s = .next t) : BlockInv t := by
  unfold Machine.seqStep at ht
  split at ht
  case h_1 =>
    split_ifs at ht <;> cases ht
    · exact h.passStart
    · exact h
  case h_2 hs =>
    cases ht
    exact h.passStep hs
  case h_3 hs => exact h.dispStep hs ht

end BlockInv

/-- Settles O48 (10_state.md R34), by the agent that moves. -/
theorem stepKeepsInvariant : Obligations.StepKeepsInvariant := by
  intro s t h hstep
  obtain ⟨-, he⟩ | ⟨-, he⟩ | ⟨w, -, ha, he⟩ | ⟨-, he⟩ | ⟨w, -, -, he⟩ := step_cases s
  · cases he.symm.trans hstep
    exact h.dropInput.tickIn
  · cases he.symm.trans hstep
    exact blockInv_resetBlock _
  · exact h.dropInput.takeWord ha (he.symm.trans hstep)
  · exact h.dropInput.seqStep (he.symm.trans hstep)
  · exact h.holdInput.seqStep (he.symm.trans hstep)

end Sys2Proof.Machine
end

section
/-! SUPPORT. The routing tables (20_memory.md R51, R52) and their converse for the digital addresses: the address of
each line of each device, from which the expanders' lines are counted (R53 to R55). -/

namespace Sys2Proof.Machine

/-! ### The tables, row by row -/

/-- Settles O10 (20_memory.md R51). -/
theorem digitalRoutingTable : Obligations.DigitalRoutingTable := by
  intro a n
  unfold routeD
  refine ⟨fun h => ?_, fun h => ?_, fun h => ?_, fun h => ?_, fun h => ?_, fun h => ?_⟩
  · rw [if_pos h]
  · rw [if_neg (by omega), if_pos h]
  · rw [if_neg (by omega), if_neg (by omega), if_pos h]
  · rw [if_neg (by omega), if_neg (by omega), if_neg (by omega), if_pos h]
  · rw [if_neg (by omega), if_neg (by omega), if_neg (by omega), if_neg (by omega), if_pos h]
  · rw [if_neg (by omega), if_neg (by omega), if_neg (by omega), if_neg (by omega), if_neg (by omega)]

/-- Settles O11 (20_memory.md R52): a channel 0..15 of the first row fits the four bits of the select code. -/
theorem analogRoutingTable : Obligations.AnalogRoutingTable := by
  intro a n
  unfold routeA
  refine ⟨fun h => ⟨BitVec.ofNat 4 (n - 1), ?_, ?_⟩, fun h => ?_, fun h => ?_, fun h => ?_⟩
  · rw [BitVec.toNat_ofNat, Nat.mod_eq_of_lt (by omega)]
  · rw [if_pos h]
  · rw [if_neg (by omega), if_pos h]
  · rw [if_neg (by omega), if_neg (by omega), if_pos h]
  · rw [if_neg (by omega), if_neg (by omega), if_neg (by omega)]

/-! ### The lines of the devices (R53 to R55) -/

/-- The local indexes `routeD` gives on a device: the lines of an expander, the addresses of the local bank. -/
def HasLine : Device → Nat → Prop
  | .expA, idx | .expB, idx | .expC, idx => idx < 16
  | .localBank, idx => 33 ≤ idx ∧ idx ≤ 46

/-- What is added to a device's local index to make its address. -/
def lineBase : Device → Nat
  | .expA => 1
  | .expB => 17
  | .expC => 49
  | .localBank => 0

theorem hasLine_expander {d : Device} (hd : d ≠ .localBank) (idx : Nat) : HasLine d idx ↔ idx < 16 := by
  cases d with
  | expA | expB | expC => rfl
  | localBank => exact absurd rfl hd

/-- Every line of a device has an 8-bit address. -/
theorem lineBase_add_lt {d : Device} {idx : Nat} (h : HasLine d idx) : lineBase d + idx < 2 ^ 8 := by
  cases d <;> simp only [HasLine] at h <;> simp only [lineBase] <;> omega

/-- An address leads to a line exactly when the device has the line and the address is that line's. -/
theorem routeD_eq_dev_iff (a : Addr) (d : Device) (idx : Nat) :
    routeD a = .dev d idx ↔ HasLine d idx ∧ a.toNat = lineBase d + idx := by
  constructor
  · intro h
    simp only [routeD] at h
    split_ifs at h <;> cases h <;> simp only [HasLine, lineBase] <;> omega
  · rintro ⟨hidx, haddr⟩
    obtain ⟨hA, hB, hL, -, hC, -⟩ := digitalRoutingTable a
    cases d <;> simp only [HasLine, lineBase] at hidx haddr
    case expA => rw [hA (by omega), haddr, Nat.add_sub_cancel_left]
    case expB => rw [hB (by omega), haddr, Nat.add_sub_cancel_left]
    case expC => rw [hC (by omega), haddr, Nat.add_sub_cancel_left]
    case localBank => rw [hL (by omega), haddr, Nat.zero_add]

/-- Every line of a device is the line of exactly one address. -/
theorem existsUnique_routeD_eq_dev {d : Device} {idx : Nat} (h : HasLine d idx) : ∃! a, routeD a = .dev d idx := by
  simp only [routeD_eq_dev_iff, h, true_and]
  refine ⟨BitVec.ofNat 8 (lineBase d + idx), ?_, fun b hb => ?_⟩
  · exact (BitVec.toNat_ofNat _ _).trans (Nat.mod_eq_of_lt (lineBase_add_lt h))
  · rw [← hb, BitVec.ofNat_toNat, BitVec.setWidth_eq]

/-- Settles O12 (20_memory.md R53, R54, R55). -/
theorem expandersPartitionTheirLines : Obligations.ExpandersPartitionTheirLines := by
  refine ⟨fun d idx hd hidx => ?_, fun a d idx hroute hd => ?_⟩
  · exact existsUnique_routeD_eq_dev ((hasLine_expander hd idx).2 hidx)
  · obtain ⟨hline, -⟩ := (routeD_eq_dev_iff a d idx).1 hroute
    exact (hasLine_expander hd idx).1 hline

end Sys2Proof.Machine
end

section
/-! SUPPORT. Words of the ports as bytes (20_memory.md R61, R62): each byte sent as a number, and the whole word
received again. -/

namespace Sys2Proof

/-! ### The bytes sent (R61) -/

/-- Byte i of a number is its i-th digit to the base 256. -/
theorem map_toNat_bytesLE (n v : Nat) :
    (bytesLE n v).map BitVec.toNat = (List.range n).map fun i => v / 256 ^ i % 256 := by
  induction n generalizing v with
  | zero => rfl
  | succ n ih =>
    rw [bytesLE, List.map_cons, ih, List.range_succ_eq_map, List.map_cons, List.map_map]
    congr 1
    · rw [BitVec.toNat_ofNat, Nat.pow_zero, Nat.div_one]
    · refine List.map_congr_left fun i _ => ?_
      rw [Function.comp_apply, Nat.succ_eq_add_one, Nat.pow_succ', Nat.div_div_eq_div_mul]

/-- The last byte of a word is what stands above the others. -/
theorem toNat_div_mod_top {k : Nat} (w : BitVec (k + 8)) : w.toNat / 2 ^ k % 2 ^ 8 = w.toNat / 2 ^ k :=
  Nat.mod_eq_of_lt (Nat.div_lt_of_lt_mul (by rw [← Nat.pow_add]; exact w.isLt))

/-- Settles O5 (20_memory.md R61, R62). -/
theorem bytesCarryWholeWords : Obligations.BytesCarryWholeWords := by
  refine ⟨fun w => ?_, fun r => ?_, fun r => ?_, fun w rest => ?_, fun r rest => ?_, fun r rest => ?_, fun bs => ?_⟩
  · rw [bytesOfWord, map_toNat_bytesLE, ← toNat_div_mod_top (k := 24) w]
    simp [List.range_succ]
  · rw [bytesOfDelivery, map_toNat_bytesLE, ← toNat_div_mod_top (k := 40) r]
    simp [List.range_succ]
  · rw [bytesOfLog, map_toNat_bytesLE, ← toNat_div_mod_top (k := 56) r]
    simp [List.range_succ]
  · have hw : receiveWord (bytesOfWord w ++ rest) = some (w, rest) := receive_bytesLE (by decide) w rest
    exact ⟨hw, by rw [decodeBytes, hw, Option.map_some]⟩
  · exact receive_bytesLE (by decide) r rest
  · exact receive_bytesLE (by decide) r rest
  · refine ⟨fun h => ?_, receive_partial, receive_partial⟩
    have hw : receiveWord bs = none := receive_partial h
    exact ⟨hw, by rw [decodeBytes, hw, Option.map_none]⟩

end Sys2Proof
end

section
/-! SUPPORT. The decoder's table (30_encoding.md R90), one equation per opcode, and its agreement with the encoder
(R82), with the fields as numbers (R80) and with the words of 95_test_vectors.md. -/

namespace Sys2Proof

/-! ### The operand field and its parts (R80) -/

/-- The bits of `opd` above its n low bits are 0 exactly when its number has n bits. -/
theorem extractLsb'_high_eq_zero_iff {n m : Nat} (h : n + m = 16) (o : BitVec 16) :
    o.extractLsb' n m = 0 ↔ o.toNat < 2 ^ n := by
  have hlt : o.toNat / 2 ^ n < 2 ^ m := Nat.div_lt_of_lt_mul (by rw [← Nat.pow_add, h]; exact o.isLt)
  rw [← BitVec.toNat_inj, BitVec.extractLsb'_toNat, Nat.shiftRight_eq_div_pow, Nat.mod_eq_of_lt hlt]
  simp [Nat.div_eq_zero_iff]

/-- An operand of n bits leaves the bits of `opd` above it 0. -/
theorem extractLsb'_setWidth_high {n m : Nat} (h : n + m = 16) (x : BitVec n) :
    (x.setWidth 16).extractLsb' n m = 0 :=
  (extractLsb'_high_eq_zero_iff h _).mpr
    (by simpa using Nat.lt_of_le_of_lt (Nat.mod_le _ _) x.isLt)

/-- An `opd` whose high bits are 0 is its low bits, zero-extended. -/
theorem setWidth_extractLsb'_low {n m : Nat} (h : n + m = 16) {o : BitVec 16} (ho : o.extractLsb' n m = 0) :
    (o.extractLsb' 0 n).setWidth 16 = o := by
  have hlt := (extractLsb'_high_eq_zero_iff h o).mp ho
  apply BitVec.eq_of_toNat_eq
  simp [Nat.mod_eq_of_lt hlt, Nat.mod_eq_of_lt o.isLt]

/-! ### The fields of a word as numbers (R80) -/

theorem kindField_eq_ofNat (w : Word) : kindField w = BitVec.ofNat 4 (w.toNat / 2 ^ 24) :=
  BitVec.eq_of_toNat_eq (by rw [kindField_toNat, BitVec.toNat_ofNat])

theorem addrField_eq_ofNat (w : Word) : addrField w = BitVec.ofNat 8 (w.toNat / 2 ^ 16) :=
  BitVec.eq_of_toNat_eq (by rw [addrField_toNat, BitVec.toNat_ofNat])

theorem opdField_eq_ofNat (w : Word) : opdField w = BitVec.ofNat 16 (w.toNat % 2 ^ 16) :=
  BitVec.eq_of_toNat_eq (by simp [opdField_toNat])

theorem kindField_eq_zero_iff (w : Word) : kindField w = 0 ↔ w.toNat / 2 ^ 24 % 16 = 0 := by
  rw [← BitVec.toNat_inj, kindField_toNat]
  rfl

theorem opdField_eq_zero_iff (w : Word) : opdField w = 0 ↔ w.toNat % 2 ^ 16 = 0 := by
  rw [← BitVec.toNat_inj, opdField_toNat]
  rfl

theorem opdField_high_eq_zero_iff {n m : Nat} (h : n + m = 16) (w : Word) :
    (opdField w).extractLsb' n m = 0 ↔ w.toNat % 2 ^ 16 < 2 ^ n := by
  rw [extractLsb'_high_eq_zero_iff h, opdField_toNat]
  rfl

theorem opdField_low_eq_ofNat (n : Nat) (w : Word) :
    (opdField w).extractLsb' 0 n = BitVec.ofNat n (w.toNat % 2 ^ 16) := by
  apply BitVec.eq_of_toNat_eq
  simp [opdField_toNat]

/-- A word with the fields of a packed one is that word (R82). -/
theorem packWord_eq_of_fields {w : Word} {op : Opcode} {k : Kind} {a : Addr} {o : BitVec 16}
    (hop : (opField w).toNat = op.toNat) (hk : kindField w = k) (ha : addrField w = a) (ho : opdField w = o) :
    packWord op k a o = w := by
  rw [← BitVec.eq_of_toNat_eq hop, ← hk, ← ha, ← ho, packWord_fields]

/-! ### The table (R90): `decode_op<n>` is the row of opcode n -/

section
variable {w : Word}

theorem decode_op0 (h : (opField w).toNat = 0) :
    decode w = if w = 0 then .ok .tick else .error .reservedField := by
  simp only [decode, h]

theorem decode_op1 (h : (opField w).toNat = 1) : decode w = .ok (.sub ⟨kindField w, addrField w⟩ (opdField w)) := by
  simp only [decode, h]

theorem decode_op2 (h : (opField w).toNat = 2) : decode w = .ok (.unsub ⟨kindField w, addrField w⟩ (opdField w)) := by
  simp only [decode, h]

theorem decode_op3 (h : (opField w).toNat = 3) : decode w = .ok (.pub ⟨kindField w, addrField w⟩ (opdField w)) := by
  simp only [decode, h]

theorem decode_op4 (h : (opField w).toNat = 4) :
    decode w = if kindField w = 0 ∧ opdField w = 0 then .ok (.dread (addrField w)) else .error .reservedField := by
  simp only [decode, h]

theorem decode_op5 (h : (opField w).toNat = 5) :
    decode w = if kindField w = 0 ∧ (opdField w).extractLsb' 1 15 = 0 then
      .ok (.dwrite (addrField w) ((opdField w).extractLsb' 0 1)) else .error .reservedField := by
  simp only [decode, h]

theorem decode_op6 (h : (opField w).toNat = 6) :
    decode w = if kindField w = 0 ∧ opdField w = 0 then .ok (.aread (addrField w)) else .error .reservedField := by
  simp only [decode, h]

theorem decode_op7 (h : (opField w).toNat = 7) :
    decode w = if kindField w = 0 ∧ (opdField w).extractLsb' 8 8 = 0 then
      .ok (.setmode (addrField w) ((opdField w).extractLsb' 0 8)) else .error .reservedField := by
  simp only [decode, h]

theorem decode_op8 (h : (opField w).toNat = 8) :
    decode w = if kindField w = 0 ∧ addrField w = 0 ∧ (opdField w).extractLsb' 1 15 = 0 then
      .ok (.ack ((opdField w).extractLsb' 0 1)) else .error .reservedField := by
  simp only [decode, h]

/-- The opcodes 0x9 to 0xF are reserved (R89). -/
theorem decode_of_nine_le (h : 9 ≤ (opField w).toNat) : decode w = .error .reservedOpcode := by
  obtain ⟨n, hn⟩ := Nat.exists_eq_add_of_le' h
  simp only [decode, hn]

end

/-! ### Decoding and encoding -/

/-- The `op` of a command's word is its opcode (R81). -/
theorem opField_encode (i : Instr) : opField (encode i) = opcodeOf i := by
  cases i <;> exact opField_packWord ..

/-- Settles O1 (R82, R90), by the command: its opcode picks the row of the table, and the row reads its fields. -/
theorem decodeOfEncode : Obligations.DecodeOfEncode := by
  intro i
  have hop : (opField (encode i)).toNat = (opcodeOf i).toNat := by rw [opField_encode]
  cases i with
  | tick => rw [decode_op0 hop, if_pos (by decide)]
  | sub k l =>
    rw [decode_op1 hop]
    simp only [encode, kindField_packWord, addrField_packWord, opdField_packWord]
  | unsub k l =>
    rw [decode_op2 hop]
    simp only [encode, kindField_packWord, addrField_packWord, opdField_packWord]
  | pub k v =>
    rw [decode_op3 hop]
    simp only [encode, kindField_packWord, addrField_packWord, opdField_packWord]
  | dread a =>
    rw [decode_op4 hop]
    simp only [encode, kindField_packWord, addrField_packWord, opdField_packWord, and_self, if_true]
  | dwrite a b =>
    rw [decode_op5 hop]
    simp only [encode, kindField_packWord, addrField_packWord, opdField_packWord,
      extractLsb'_setWidth_high (show 1 + 15 = 16 by decide), extractLsb'_setWidth_low (show 1 ≤ 16 by decide),
      and_self, if_true]
  | aread a =>
    rw [decode_op6 hop]
    simp only [encode, kindField_packWord, addrField_packWord, opdField_packWord, and_self, if_true]
  | setmode a m =>
    rw [decode_op7 hop]
    simp only [encode, kindField_packWord, addrField_packWord, opdField_packWord,
      extractLsb'_setWidth_high (show 8 + 8 = 16 by decide), extractLsb'_setWidth_low (show 8 ≤ 16 by decide),
      and_self, if_true]
  | ack f =>
    rw [decode_op8 hop]
    simp only [encode, kindField_packWord, addrField_packWord, opdField_packWord,
      extractLsb'_setWidth_high (show 1 + 15 = 16 by decide), extractLsb'_setWidth_low (show 1 ≤ 16 by decide),
      and_self, if_true]

/-- A row with a condition gives a command only where the condition holds, and then its own. -/
theorem ok_of_ite_eq_ok {p : Prop} [Decidable p] {i j : Instr} {e : IllegalCause}
    (h : (if p then .ok i else .error e : Except IllegalCause Instr) = .ok j) : p ∧ i = j := by
  split_ifs at h with hp
  exact ⟨hp, Except.ok.inj h⟩

/-- Settles O2 (R82, R89), by the opcode: the row's conditions are that the fields its command does not use are 0. -/
theorem encodeOfDecode : Obligations.EncodeOfDecode := by
  intro w i h
  match hop : (opField w).toNat with
  | 0 =>
    obtain ⟨rfl, rfl⟩ := ok_of_ite_eq_ok ((decode_op0 hop).symm.trans h)
    decide
  | 1 =>
    cases (decode_op1 hop).symm.trans h
    exact packWord_eq_of_fields hop rfl rfl rfl
  | 2 =>
    cases (decode_op2 hop).symm.trans h
    exact packWord_eq_of_fields hop rfl rfl rfl
  | 3 =>
    cases (decode_op3 hop).symm.trans h
    exact packWord_eq_of_fields hop rfl rfl rfl
  | 4 =>
    obtain ⟨⟨hk, ho⟩, rfl⟩ := ok_of_ite_eq_ok ((decode_op4 hop).symm.trans h)
    exact packWord_eq_of_fields hop hk rfl ho
  | 5 =>
    obtain ⟨⟨hk, ho⟩, rfl⟩ := ok_of_ite_eq_ok ((decode_op5 hop).symm.trans h)
    exact packWord_eq_of_fields hop hk rfl (setWidth_extractLsb'_low (by decide) ho).symm
  | 6 =>
    obtain ⟨⟨hk, ho⟩, rfl⟩ := ok_of_ite_eq_ok ((decode_op6 hop).symm.trans h)
    exact packWord_eq_of_fields hop hk rfl ho
  | 7 =>
    obtain ⟨⟨hk, ho⟩, rfl⟩ := ok_of_ite_eq_ok ((decode_op7 hop).symm.trans h)
    exact packWord_eq_of_fields hop hk rfl (setWidth_extractLsb'_low (by decide) ho).symm
  | 8 =>
    obtain ⟨⟨hk, ha, ho⟩, rfl⟩ := ok_of_ite_eq_ok ((decode_op8 hop).symm.trans h)
    exact packWord_eq_of_fields hop hk ha (setWidth_extractLsb'_low (by decide) ho).symm
  | n + 9 => cases (decode_of_nine_le (by omega)).symm.trans h

/-- A row with a condition, read with the condition said otherwise. -/
theorem decode_ite {w : Word} {p q : Prop} [Decidable p] [Decidable q] {i : Instr} {e : IllegalCause}
    (h : decode w = if p then .ok i else .error e) (hpq : p ↔ q) :
    if q then decode w = .ok i else ∃ c, decode w = .error c := by
  split_ifs with hq
  · rw [h, if_pos (hpq.mpr hq)]
  · exact ⟨e, by rw [h, if_neg (mt hpq.mp hq)]⟩

/-- Settles O3 (R90), row by row. -/
theorem decodeIsTheTable : Obligations.DecodeIsTheTable := by
  intro w
  simp only [← opField_toNat, ← kindField_eq_ofNat, ← addrField_eq_ofNat, ← opdField_eq_ofNat,
    ← kindField_eq_zero_iff, ← opdField_eq_zero_iff, ← opdField_low_eq_ofNat 1,
    ← opdField_low_eq_ofNat 8]
  have hbit := opdField_high_eq_zero_iff (show 1 + 15 = 16 by decide) w
  have hbyte := opdField_high_eq_zero_iff (show 8 + 8 = 16 by decide) w
  refine ⟨fun h => decode_ite (decode_op0 h) .rfl, decode_op1, decode_op2, decode_op3,
    fun h => decode_ite (decode_op4 h) .rfl, fun h => decode_ite (decode_op5 h) (and_congr_right' hbit),
    fun h => decode_ite (decode_op6 h) .rfl, fun h => decode_ite (decode_op7 h) (and_congr_right' hbyte),
    fun h => decode_ite (decode_op8 h) (and_congr_right' (and_congr_right' hbit)),
    fun h => ⟨_, decode_of_nine_le h⟩⟩

/-- Settles O4: the decoder evaluated on each word. -/
theorem writtenWordsDecode : Obligations.WrittenWordsDecode := by
  unfold Obligations.WrittenWordsDecode
  decide

end Sys2Proof
end

section
/-! SUPPORT. What the assembler makes of a form whose numbers fit (30_encoding.md R92, R83), and of a source call
(R93). -/

namespace Sys2Proof

/-! ### When a form is a command (R92) -/

theorem assemble_eq_some {c : AsmCmd} (h : c.wellFormed = true) : assemble c = some (asmFields c) := if_pos h

theorem assemble_eq_none {c : AsmCmd} (h : c.wellFormed = false) : assemble c = none := by
  simp [assemble, h]

/-- `User<n>` names a kind for n in 4 to 15 only (R83). -/
theorem KindName.wellFormed_iff (k : KindName) : k.wellFormed = true ↔ ∀ n, k = .user n → 4 ≤ n ∧ n ≤ 15 := by
  cases k <;> simp [KindName.wellFormed]

theorem AsmKey.wellFormed_iff (k : AsmKey) : k.wellFormed = true ↔ k.kind.wellFormed = true ∧ k.addr < 256 := by
  simp [AsmKey.wellFormed]

/-- A number that fits its field is that field's number (R92). -/
theorem toNat_ofNat_of_lt {w n : Nat} (h : n < 2 ^ w) : (BitVec.ofNat w n).toNat = n := by
  rw [BitVec.toNat_ofNat, Nat.mod_eq_of_lt h]

/-! ### Keys (R83, R84) -/

/-- A kind with a number is the name of that number (R83). -/
theorem kindName_kindNumber {k : KindName} (h : k.wellFormed = true) : kindName (kindNumber k) = k := by
  cases k with
  | user n =>
    obtain ⟨hlo, hhi⟩ := (KindName.wellFormed_iff _).mp h n rfl
    interval_cases n <;> rfl
  | digitalRising => rfl
  | digitalFalling => rfl
  | digitalChange => rfl
  | analogChange => rfl

theorem kindName_asmKey {k : AsmKey} (h : k.wellFormed = true) : kindName (asmKey k).kind = k.kind :=
  kindName_kindNumber (k.wellFormed_iff.mp h).1

theorem toNat_asmKey_addr {k : AsmKey} (h : k.wellFormed = true) : (asmKey k).addr.toNat = k.addr :=
  toNat_ofNat_of_lt (k.wellFormed_iff.mp h).2

/-! ### The forms with a key -/

/-- The three forms with a key and a number assemble when both fit. -/
theorem assemble_keyed {k : AsmKey} {n : Nat} (hk : k.wellFormed = true) (hn : n < 65536) :
    assemble (.sub k n) = some (.sub (asmKey k) (BitVec.ofNat 16 n)) ∧
    assemble (.unsub k n) = some (.unsub (asmKey k) (BitVec.ofNat 16 n)) ∧
    assemble (.pub k n) = some (.pub (asmKey k) (BitVec.ofNat 16 n)) := by
  refine ⟨assemble_eq_some ?_, assemble_eq_some ?_, assemble_eq_some ?_⟩ <;> simp [AsmCmd.wellFormed, hk, hn]

/-- They do not when one does not fit. -/
theorem assemble_keyed_eq_none {k : AsmKey} {n : Nat} (h : k.wellFormed = true → 65536 ≤ n) :
    assemble (.sub k n) = none ∧ assemble (.unsub k n) = none ∧ assemble (.pub k n) = none := by
  have hw : (k.wellFormed && decide (n < 65536)) = false := by simpa using h
  exact ⟨assemble_eq_none hw, assemble_eq_none hw, assemble_eq_none hw⟩

/-! ### The forms with an address -/

section
variable {a n : Nat}

theorem assemble_dread (ha : a < 256) : assemble (.dread a) = some (.dread (BitVec.ofNat 8 a)) :=
  assemble_eq_some (by simpa [AsmCmd.wellFormed] using ha)

theorem assemble_aread (ha : a < 256) : assemble (.aread a) = some (.aread (BitVec.ofNat 8 a)) :=
  assemble_eq_some (by simpa [AsmCmd.wellFormed] using ha)

theorem assemble_dwrite (ha : a < 256) (hn : n < 2) :
    assemble (.dwrite a n) = some (.dwrite (BitVec.ofNat 8 a) (BitVec.ofNat 1 n)) :=
  assemble_eq_some (by simp [AsmCmd.wellFormed, ha, hn])

theorem assemble_setmode (ha : a < 256) (hn : n < 256) :
    assemble (.setmode a n) = some (.setmode (BitVec.ofNat 8 a) (BitVec.ofNat 8 n)) :=
  assemble_eq_some (by simp [AsmCmd.wellFormed, ha, hn])

theorem assemble_dread_eq_none (ha : 256 ≤ a) : assemble (.dread a) = none :=
  assemble_eq_none (by simpa [AsmCmd.wellFormed] using ha)

theorem assemble_aread_eq_none (ha : 256 ≤ a) : assemble (.aread a) = none :=
  assemble_eq_none (by simpa [AsmCmd.wellFormed] using ha)

theorem assemble_dwrite_eq_none (h : 256 ≤ a ∨ 2 ≤ n) : assemble (.dwrite a n) = none :=
  assemble_eq_none (by simpa [AsmCmd.wellFormed] using fun ha => show 1 < n from h.resolve_left (Nat.not_le.mpr ha))

theorem assemble_setmode_eq_none (h : 256 ≤ a ∨ 256 ≤ n) : assemble (.setmode a n) = none :=
  assemble_eq_none (by simpa [AsmCmd.wellFormed] using fun ha => h.resolve_left (Nat.not_le.mpr ha))

end

/-- Settles O6 (R92, R83), form by form; that the word decodes is O1. -/
theorem assemblyFitsFields : Obligations.AssemblyFitsFields := by
  refine ⟨fun c => assemble_eq_none, fun k l h => assemble_keyed_eq_none fun hk => ?_, fun k l hkind haddr hl => ?_,
    fun a ha => ⟨assemble_dread_eq_none ha, assemble_aread_eq_none ha, fun n =>
      ⟨assemble_dwrite_eq_none (.inl ha), assemble_setmode_eq_none (.inl ha)⟩⟩,
    fun a n => ⟨fun hn => assemble_dwrite_eq_none (.inr hn), fun hn => assemble_setmode_eq_none (.inr hn)⟩,
    fun a ha => ⟨_, toNat_ofNat_of_lt ha, assemble_dread ha, assemble_aread ha,
      fun b hb => ⟨_, toNat_ofNat_of_lt hb, assemble_dwrite ha hb⟩,
      fun m hm => ⟨_, toNat_ofNat_of_lt hm, assemble_setmode ha hm⟩⟩,
    rfl, rfl, rfl, fun c i _ => decodeOfEncode i⟩
  · obtain ⟨hkind, haddr⟩ := k.wellFormed_iff.mp hk
    obtain ⟨n, hn, hout⟩ | ha | hl := h
    · have := k.kind.wellFormed_iff.mp hkind n hn
      omega
    · omega
    · exact hl
  · have hk : k.wellFormed = true := k.wellFormed_iff.mpr ⟨k.kind.wellFormed_iff.mpr hkind, haddr⟩
    exact ⟨asmKey k, _, toNat_asmKey_addr hk, kindName_asmKey hk, toNat_ofNat_of_lt hl, assemble_keyed hk hl⟩

/-! ### Source calls (R93) -/

/-- A pin kind with an address that fits is a key. -/
theorem AsmKey.wellFormed_mk {k : KindName} {a : Nat} (hk : k.wellFormed = true) (ha : a < 256) :
    (⟨k, a⟩ : AsmKey).wellFormed = true := (AsmKey.wellFormed_iff _).mpr ⟨hk, ha⟩

/-- Settles O7 (R93): the calls on a pin, on any key, on an address, and a listener's two ends. -/
theorem sourceCallsAreOneCommand : Obligations.SourceCallsAreOneCommand := by
  refine ⟨fun a l ha hl => ?_, fun k n hk hn => ⟨asmKey k, toNat_asmKey_addr hk, kindName_asmKey hk,
      assemble_keyed hk hn⟩,
    fun a ha => ⟨assemble_dread ha, assemble_aread ha, fun b => assemble_dwrite ha, fun m => assemble_setmode ha⟩,
    rfl, rfl⟩
  have keyed (k : KindName) (hk : k.wellFormed = true) := assemble_keyed (AsmKey.wellFormed_mk hk ha) hl
  obtain ⟨subRising, unsubRising, -⟩ := keyed .digitalRising rfl
  obtain ⟨subFalling, unsubFalling, -⟩ := keyed .digitalFalling rfl
  obtain ⟨subChange, unsubChange, -⟩ := keyed .digitalChange rfl
  obtain ⟨subAnalog, unsubAnalog, -⟩ := keyed .analogChange rfl
  exact ⟨subRising, subFalling, subChange, subAnalog, unsubRising, unsubFalling, unsubChange, unsubAnalog⟩

end Sys2Proof
end

section
/-! SUPPORT. The words of the ports as numbers (30_encoding.md R85, R87, R88). -/

namespace Sys2Proof.Machine

/-- Settles O8 (R85, R87, R88): each field stands above the widths of those after it. -/
theorem portWordsHaveTheirFields : Obligations.PortWordsHaveTheirFields := by
  refine ⟨fun st count data => ?_, fun l k v => ?_, fun type kind addr l v count => ?_⟩
  · simp only [packResponse, append_toNat]
    omega
  · simp only [packDelivery, append_toNat, BitVec.ofNat_eq_ofNat, BitVec.toNat_zero]
    omega
  · simp only [packLog, append_toNat]
    omega

end Sys2Proof.Machine
end

section
/-! SUPPORT. What a command answers and reports (30_encoding.md R85, 60_exceptions.md R241): its shared operations as
they appear on the ports, then each command. -/

namespace Sys2Proof.Machine

/-- From s to u nothing is answered, logged or delivered and no frame is pushed or popped. -/
structure Silent (s u : State) : Prop where
  log : u.log = s.log := by rfl
  deliv : u.deliv = s.deliv := by rfl
  resp : u.resp = s.resp := by rfl
  stack : u.stack = s.stack := by rfl

/-- From s to t there is one response, at most one log record, no delivery, and no frame is pushed or popped. -/
structure AnsweredOnce (s t : State) : Prop where
  log : t.log = s.log ∨ ∃ r, t.log = s.log ++ [r]
  deliv : t.deliv = s.deliv
  resp : ∃ r, t.resp = s.resp ++ [r]
  stack : t.stack = s.stack

/-! ### Shared operations -/

theorem silent_refl (s : State) : Silent s s where

theorem silent_setRegistry (r : List SubEntry) (s : State) : Silent s (setRegistry r s) where

theorem silent_devRead (d : Device) (idx : Nat) (s : State) : Silent s (devRead d idx s) where

theorem silent_devWrite (d : Device) (idx : Nat) (b : Bit) (s : State) : Silent s (devWrite d idx b s) where

theorem silent_devMode (d : Device) (idx : Nat) (m : Mode) (s : State) : Silent s (devMode d idx m s) where

theorem silent_adcRead (c : Nat) (s : State) : Silent s (adcRead c s) where

theorem silent_muxRead (ch : Channel) (s : State) : Silent s (muxRead ch s) := by
  rw [muxRead_frame]
  exact {}

/-- A response answers. -/
theorem Silent.respond {s u : State} (h : Silent s u) (st : Status) (count : BitVec 12) (data : Value) :
    AnsweredOnce s (respond st count data u) where
  log := .inl h.log
  deliv := h.deliv
  resp := ⟨_, by rw [respond_resp, h.resp]⟩
  stack := h.stack

/-- A condition that has a status answers and is logged (60_exceptions.md R240). -/
theorem Silent.raise {s u : State} (h : Silent s u) {c : Condition} {st : Status} (hc : conditionStatus c = some st) :
    AnsweredOnce s (raise true c u) := by
  rw [raise_eq, hc]
  exact ⟨.inr ⟨_, congrArg (· ++ _) h.log⟩, h.deliv, ⟨_, congrArg (· ++ _) h.resp⟩, h.stack⟩

/-! ### The commands answered at once -/

theorem answeredOnce_execTick {s t : State} (h : execTick s = .next t) : AnsweredOnce s t := by
  cases h
  rw [tickIn_eq]
  refine ⟨?_, rfl, ⟨_, rfl⟩, rfl⟩
  cases s.tickPending
  · exact .inl (List.append_nil _)
  · exact .inr ⟨_, rfl⟩

theorem answeredOnce_execSub {k : Key} {l : Listener} {s t : State} (h : execSub k l s = .next t) :
    AnsweredOnce s t := by
  cases h
  split_ifs
  · exact (silent_refl s).raise rfl
  · exact (silent_refl s).raise rfl
  · exact (silent_setRegistry _ s).respond ..

theorem answeredOnce_execUnsub {k : Key} {l : Listener} {s t : State} (h : execUnsub k l s = .next t) :
    AnsweredOnce s t := by
  cases h
  split_ifs
  · exact (silent_setRegistry _ s).respond ..
  · exact (silent_refl s).raise rfl

theorem answeredOnce_execDread {a : Addr} {s t : State} (h : execDread a s = .next t) : AnsweredOnce s t := by
  cases h
  cases routeD a with
  | dev d idx =>
    cases levelOf (nextDraw s) with
    | ok b => exact (silent_devRead d idx s).respond ..
    | fail => exact (silent_devRead d idx s).raise rfl
  | reserved => exact (silent_refl s).respond ..
  | outOfRange => exact (silent_refl s).raise rfl

theorem answeredOnce_execDwrite {a : Addr} {b : Bit} {s t : State} (h : execDwrite a b s = .next t) :
    AnsweredOnce s t := by
  cases h
  cases routeD a with
  | dev d idx =>
    cases doneOf (nextDraw s) with
    | ok _ => exact (silent_devWrite d idx b s).respond ..
    | fail => exact (silent_devWrite d idx b s).raise rfl
  | reserved => exact (silent_refl s).respond ..
  | outOfRange => exact (silent_refl s).raise rfl

theorem answeredOnce_execSetmode {a : Addr} {m : Mode} {s t : State} (h : execSetmode a m s = .next t) :
    AnsweredOnce s t := by
  cases h
  cases routeD a with
  | dev d idx =>
    cases doneOf (nextDraw s) with
    | ok _ => exact (silent_devMode d idx m s).respond ..
    | fail => exact (silent_devMode d idx m s).raise rfl
  | reserved => exact (silent_refl s).respond ..
  | outOfRange => exact (silent_refl s).raise rfl

theorem Silent.areadAnswer {s u : State} (h : Silent s u) (a : Addr) (r : Answer 16) :
    AnsweredOnce s (areadAnswer a r u) := by
  cases r with
  | ok v => exact h.respond ..
  | fail =>
    show AnsweredOnce s (Machine.raise true (.busFail .analog a 0x6) u)
    exact h.raise rfl

theorem answeredOnce_execAread {a : Addr} {s t : State} (h : execAread a s = .next t) : AnsweredOnce s t := by
  cases h
  cases routeA a with
  | mux ch => exact (silent_muxRead ch s).areadAnswer ..
  | adc c => exact (silent_adcRead c s).areadAnswer ..
  | outOfRange => exact (silent_refl s).raise rfl

/-! ### The two commands that may be answered later or not at all -/

/-- A `PUB` at full depth is answered at once, any other is logged and its dispatch begun (42_event_bus.md R182). -/
theorem execPub_cases {k : Key} {v : Value} {s t : State} (h : execPub k v s = .next t) :
    AnsweredOnce s t ∨ (s.stack.length ≠ s.cfg.maxDepth ∧ t = publish k v .host s) := by
  cases h
  split_ifs with hdepth
  · exact .inl ((silent_refl s).raise rfl)
  · exact .inr ⟨hdepth, rfl⟩

/-- An ACK of no awaited delivery is answered at once, any other logs at most its fault (R185). -/
theorem execAck_next {f : Bit} {s t : State} (h : execAck f s = .next t) :
    AnsweredOnce s t ∨ (accepting s = true ∧ s.stack ≠ [] ∧ t.resp = s.resp ∧ t.deliv = s.deliv ∧
      (t.log = s.log ∨ ∃ r, t.log = s.log ++ [r])) := by
  obtain ⟨d, rest, hs, hsent, -, he⟩ | ⟨d, rest, l, hs, hsent, -, -, he⟩ | ⟨-, he⟩ | ⟨d, rest, -, -, -, he⟩ :=
    execAck_cases f s <;> cases he.symm.trans h
  · exact .inr ⟨by simp [accepting, hs, hsent], by simp [hs], rfl, rfl, .inl rfl⟩
  · exact .inr ⟨by simp [accepting, hs, hsent], by simp [hs], rfl, rfl, .inr ⟨_, rfl⟩⟩
  · exact .inl ((silent_refl s).raise rfl)

/-- Settles O55 (30_encoding.md R85, 60_exceptions.md R241), by the command. -/
theorem oneResponseOneRecord : Obligations.OneResponseOneRecord := by
  intro i s t h
  have atOnce (ha : AnsweredOnce s t) {q : Prop} : (t.log = s.log ∨ ∃ r, t.log = s.log ++ [r]) ∧ t.deliv = s.deliv ∧
      ((∃ r, t.resp = s.resp ++ [r] ∧ t.stack = s.stack) ∨ q) :=
    ⟨ha.log, ha.deliv, .inl (ha.resp.imp fun _ hr => ⟨hr, ha.stack⟩)⟩
  cases i with
  | tick => exact atOnce (answeredOnce_execTick h)
  | sub k l => exact atOnce (answeredOnce_execSub h)
  | unsub k l => exact atOnce (answeredOnce_execUnsub h)
  | pub k v =>
    obtain ha | ⟨hdepth, rfl⟩ := execPub_cases h
    · exact atOnce ha
    · exact ⟨.inr ⟨_, rfl⟩, rfl, .inr ⟨rfl, .inr ⟨k, v, rfl, hdepth⟩⟩⟩
  | dread a => exact atOnce (answeredOnce_execDread h)
  | dwrite a b => exact atOnce (answeredOnce_execDwrite h)
  | aread a => exact atOnce (answeredOnce_execAread h)
  | setmode a m => exact atOnce (answeredOnce_execSetmode h)
  | ack f =>
    obtain ha | ⟨hacc, hstack, hresp, hdeliv, hlog⟩ := execAck_next h
    · exact atOnce ha
    · exact ⟨hlog, hdeliv, .inr ⟨hresp, .inl ⟨f, rfl, hacc, hstack⟩⟩⟩

end Sys2Proof.Machine
end

section
/-! SUPPORT. The direct commands (40_direct_io.md): the words of their conditions and of their operands, the ends of a
command, and each command's accesses (R110). -/

namespace Sys2Proof.Machine

/-! ### Words written out (30_encoding.md R80, R85, R88) -/

/-- An operand narrower than `opd` stands below as many zeros as fill it (R80). -/
theorem packWord_setWidth_toNat {n m : Nat} (h : m + n = 16) (op : Opcode) (k : Kind) (a : Addr) (x : BitVec n) :
    (packWord op k a (x.setWidth 16)).toNat = (op ++ k ++ a ++ (0 : BitVec m) ++ x).toNat := by
  have hx : x.toNat < 2 ^ 16 := x.isLt.trans_le (Nat.pow_le_pow_right (by decide) (by omega))
  have hpow : 2 ^ m * 2 ^ n = 2 ^ 16 := by rw [← Nat.pow_add, h]
  rw [packWord_toNat, BitVec.toNat_setWidth, Nat.mod_eq_of_lt hx]
  simp only [append_toNat, BitVec.ofNat_eq_ofNat, BitVec.toNat_zero, Nat.add_zero]
  rw [Nat.mul_assoc _ (2 ^ m), hpow]
  omega

/-- The record of a condition at a pin address: type and space, address, value (R88). -/
theorem packLog_pin (type : BitVec 4) (kind : Kind) (a : Addr) (v : Value) :
    packLog type kind a 0 v 0 = (type ++ kind) ++ a ++ ((0 : BitVec 16) ++ v ++ (0 : BitVec 16)) := by
  apply BitVec.eq_of_toNat_eq
  simp only [packLog, append_toNat, BitVec.ofNat_eq_ofNat, BitVec.toNat_zero]
  omega

/-- The response `OK` with no count is its data (R85). -/
theorem packResponse_ok (v : Value) : packResponse .ok 0 v = v.setWidth 32 := by
  apply BitVec.eq_of_toNat_eq
  have hv := v.isLt
  simp only [packResponse, statusCode, append_toNat, BitVec.ofNat_eq_ofNat, BitVec.toNat_zero, BitVec.toNat_setWidth]
  omega

/-! ### The ends of a direct command -/

/-- The whole effect of an `OK` response. -/
theorem respond_ok (v : Value) (s : State) :
    respond .ok 0 v s = { s with resp := s.resp ++ [v.setWidth 32] } := by
  rw [← packResponse_ok]
  rfl

/-- The whole effect of an unrouted address in a command (60_exceptions.md R231). -/
theorem raise_outOfRange (sp : Space) (a : Addr) (op : Opcode) (s : State) :
    raise true (.outOfRange sp a op) s =
      { s with
        resp := s.resp ++ [0x10000000]
        log := s.log ++ [((0x5 : BitVec 4) ++ spaceCode sp) ++ a ++
          ((0 : BitVec 16) ++ op.setWidth 16 ++ (0 : BitVec 16))] } := by
  rw [raise_eq, ← packLog_pin]
  rfl

/-- The whole effect of a failed access in a command (60_exceptions.md R234). -/
theorem raise_busFail (sp : Space) (a : Addr) (op : Opcode) (s : State) :
    raise true (.busFail sp a op) s =
      { s with
        resp := s.resp ++ [0x40000000]
        log := s.log ++ [((0x4 : BitVec 4) ++ spaceCode sp) ++ a ++
          ((0 : BitVec 16) ++ op.setWidth 16 ++ (0 : BitVec 16))] } := by
  rw [raise_eq, ← packLog_pin]
  rfl

theorem doneOf_of_ok {d : Draw} (h : d.ok = true) : doneOf d = .ok 0 := if_pos h

theorem doneOf_of_fail {d : Draw} (h : d.ok = false) : doneOf d = .fail := by simp [doneOf, h]

/-! ### The three digital commands: one shape (R111, R112, R114) -/

/-- A digital command of opcode `op` whose access has the answer r: no access at an unrouted or a reserved address, else
one access recorded by `record`, and the response carries what `data` makes of a good answer. -/
def pinCommand (op : Opcode) (a : Addr) (r : Answer 1) (data : Bit → Value)
    (record : Device → Nat → Answer 1 → DevRecord) (s : State) : State :=
  match routeD a with
  | .outOfRange => raise true (.outOfRange .digital a op) s
  | .reserved => respond .ok 0 0 s
  | .dev d idx =>
    match r with
    | .ok v => respond .ok 0 (data v) (emitDev [record d idx r] (dropDraw s))
    | .fail => raise true (.busFail .digital a op) (emitDev [record d idx r] (dropDraw s))

theorem exec_dread (a : Addr) (s : State) :
    exec (.dread a) s = .next (pinCommand 0x4 a (levelOf (nextDraw s)) (·.setWidth 16) .devRead s) := rfl

theorem exec_dwrite (a : Addr) (b : Bit) (s : State) :
    exec (.dwrite a b) s =
      .next (pinCommand 0x5 a (doneOf (nextDraw s)) (fun _ => 0) (fun d idx => .devWrite d idx b) s) := rfl

theorem exec_setmode (a : Addr) (m : Mode) (s : State) :
    exec (.setmode a m) s =
      .next (pinCommand 0x7 a (doneOf (nextDraw s)) (fun _ => 0) (fun d idx => .devMode d idx m) s) := rfl

section
variable {op : Opcode} {a : Addr} {r : Answer 1} {data : Bit → Value} {record : Device → Nat → Answer 1 → DevRecord}
  {s : State} {d : Device} {idx : Nat}

theorem pinCommand_outOfRange (h : routeD a = .outOfRange) :
    pinCommand op a r data record s =
      { s with
        resp := s.resp ++ [0x10000000]
        log := s.log ++ [(0x50 : BitVec 8) ++ a ++ ((0 : BitVec 16) ++ op.setWidth 16 ++ (0 : BitVec 16))] } := by
  rw [pinCommand, h]
  exact raise_outOfRange ..

theorem pinCommand_reserved (h : routeD a = .reserved) :
    pinCommand op a r data record s = { s with resp := s.resp ++ [0] } := by
  rw [pinCommand, h]
  exact respond_ok ..

theorem pinCommand_ok (h : routeD a = .dev d idx) (v : Bit) :
    pinCommand op a (.ok v) data record s =
      { dropDraw s with
        resp := s.resp ++ [(data v).setWidth 32]
        devhist := s.devhist ++ [record d idx (.ok v)] } := by
  rw [pinCommand, h]
  exact respond_ok ..

theorem pinCommand_fail (h : routeD a = .dev d idx) :
    pinCommand op a .fail data record s =
      { dropDraw s with
        resp := s.resp ++ [0x40000000]
        log := s.log ++ [(0x40 : BitVec 8) ++ a ++ ((0 : BitVec 16) ++ op.setWidth 16 ++ (0 : BitVec 16))]
        devhist := s.devhist ++ [record d idx .fail] } := by
  rw [pinCommand, h]
  exact raise_busFail ..

end

/-- Settles O13 (R111), by the route of the address and the answer. -/
theorem dreadEffect : Obligations.DreadEffect := by
  intro a s
  rw [exec_dread]
  refine ⟨rfl, fun h => ?_, fun h => ?_, fun d idx b h hb => ?_, fun d idx h hfail => ?_⟩
  · rw [pinCommand_outOfRange h]
    rfl
  · rw [pinCommand_reserved h]
  · rw [hb, pinCommand_ok h, BitVec.setWidth_setWidth (by decide)]
  · rw [hfail, pinCommand_fail h]
    rfl

/-- Settles O14 (R112), by the route of the address and the answer. -/
theorem dwriteEffect : Obligations.DwriteEffect := by
  intro a b s
  rw [exec_dwrite]
  refine ⟨BitVec.eq_of_toNat_eq (packWord_setWidth_toNat rfl _ 0 a b), fun h => ?_, fun h => ?_,
    fun d idx h hok => ?_, fun d idx h hfail => ?_⟩
  · rw [pinCommand_outOfRange h]
    rfl
  · rw [pinCommand_reserved h]
  · rw [doneOf_of_ok hok, pinCommand_ok h]
    rfl
  · rw [doneOf_of_fail hfail, pinCommand_fail h]
    rfl

/-- Settles O16 (R114), by the route of the address and the answer. -/
theorem setmodeEffect : Obligations.SetmodeEffect := by
  intro a m s
  rw [exec_setmode]
  refine ⟨BitVec.eq_of_toNat_eq (packWord_setWidth_toNat rfl _ 0 a m), fun h => ?_, fun h => ?_,
    fun d idx h hok => ?_, fun d idx h hfail => ?_⟩
  · rw [pinCommand_outOfRange h]
    rfl
  · rw [pinCommand_reserved h]
  · rw [doneOf_of_ok hok, pinCommand_ok h]
    rfl
  · rw [doneOf_of_fail hfail, pinCommand_fail h]
    rfl

/-! ### The analog command (R113) -/

/-- An `AREAD` that reaches a device leaves that access's records and ends by its answer (R113, 20_memory.md R56). -/
theorem exec_aread_of_access {a : Addr} {s : State} {recs : Answer 16 → List DevRecord}
    (h : (∃ ch : Channel, routeA a = .mux ch ∧ ch.toNat < s.cfg.muxChannels ∧
        recs = fun r => [.muxSelect ch, .muxRead ch r]) ∨
      (∃ c : Nat, routeA a = .adc c ∧ recs = fun r => [.adcRead c r])) :
    exec (.aread a) s = .next (areadAnswer a (sampleOf s.cfg (nextDraw s))
      (emitDev (recs (sampleOf s.cfg (nextDraw s))) (dropDraw s))) := by
  rw [exec, execAread]
  obtain ⟨ch, hroute, hlt, rfl⟩ | ⟨c, hroute, rfl⟩ := h <;> rw [hroute]
  · simp only [muxAnswer_of_lt hlt, muxRead_of_lt hlt]
    rfl
  · rfl

/-- Settles O15 (R113, R56, R58), by the route of the address and the answer. -/
theorem areadEffect : Obligations.AreadEffect := by
  intro a s
  refine ⟨rfl, fun h => ?_, fun ch h hle => ?_, fun recs h => ⟨fun v hv => ?_, fun hfail => ?_⟩⟩
  · rw [exec, execAread, h]
    simp only [raise_outOfRange]
    rfl
  · rw [exec, execAread, h]
    simp only [muxAnswer_of_le hle, muxRead_of_le hle, areadAnswer, respond_ok]
    rfl
  · rw [exec_aread_of_access h, hv, areadAnswer, respond_ok]
    rfl
  · rw [exec_aread_of_access h, hfail, areadAnswer, raise_busFail]
    rfl

/-! ### What a direct command leaves (R110) -/

/-- The state after at most one device access from s: none, one record and one draw, or a select, its read and one
draw (20_memory.md R59, R60). -/
inductive Accessed (s : State) : State → Prop
  | none : Accessed s s
  | one (e : DevRecord) : Accessed s (emitDev [e] (dropDraw s))
  | mux (ch : Channel) (r : Answer 16) : Accessed s (emitDev [.muxSelect ch, .muxRead ch r] (dropDraw s))

theorem accessed_muxRead (ch : Channel) (s : State) : Accessed s (muxRead ch s) := by
  unfold muxRead
  split
  · exact .none
  · exact .mux ch _

/-- From s to t: at most one access, then one response and whatever is logged. -/
def EndsDirectly (s t : State) : Prop :=
  ∃ u w l, Accessed s u ∧ t = { u with resp := u.resp ++ [w], log := l }

namespace Accessed

variable {s u : State} (h : Accessed s u)
include h

theorem respond (st : Status) (count : BitVec 12) (data : Value) : EndsDirectly s (respond st count data u) :=
  ⟨u, _, u.log, h, rfl⟩

theorem raise_outOfRange (sp : Space) (a : Addr) (op : Opcode) :
    EndsDirectly s (raise true (.outOfRange sp a op) u) :=
  ⟨u, _, _, h, Machine.raise_outOfRange sp a op u⟩

theorem raise_busFail (sp : Space) (a : Addr) (op : Opcode) : EndsDirectly s (raise true (.busFail sp a op) u) :=
  ⟨u, _, _, h, Machine.raise_busFail sp a op u⟩

theorem areadAnswer (a : Addr) (r : Answer 16) : EndsDirectly s (areadAnswer a r u) := by
  cases r with
  | ok v => exact h.respond .ok 0 v
  | fail => exact h.raise_busFail .analog a 0x6

end Accessed

theorem endsDirectly_pinCommand (op : Opcode) (a : Addr) (r : Answer 1) (data : Bit → Value)
    (record : Device → Nat → Answer 1 → DevRecord) (s : State) :
    EndsDirectly s (pinCommand op a r data record s) := by
  unfold pinCommand
  cases routeD a with
  | dev d idx =>
    have h : Accessed s (emitDev [record d idx r] (dropDraw s)) := .one _
    cases r with
    | ok v => exact h.respond ..
    | fail => exact h.raise_busFail ..
  | reserved => exact Accessed.none.respond ..
  | outOfRange => exact Accessed.none.raise_outOfRange ..

theorem execAread_endsDirectly (a : Addr) (s : State) : ∃ t, execAread a s = .next t ∧ EndsDirectly s t := by
  refine ⟨_, rfl, ?_⟩
  cases routeA a with
  | mux ch => exact (accessed_muxRead ch s).areadAnswer ..
  | adc c => exact (Accessed.one (.adcRead c _)).areadAnswer ..
  | outOfRange => exact Accessed.none.raise_outOfRange ..

/-- Settles O17 (R110), by the command and then by its access. -/
theorem directCommandsLeaveBlockState : Obligations.DirectCommandsLeaveBlockState := by
  intro i s hi
  have hend : ∃ t, exec i s = .next t ∧ EndsDirectly s t := by
    obtain ⟨a, rfl⟩ | ⟨a, b, rfl⟩ | ⟨a, rfl⟩ | ⟨a, m, rfl⟩ := hi
    · exact ⟨_, exec_dread a s, endsDirectly_pinCommand ..⟩
    · exact ⟨_, exec_dwrite a b s, endsDirectly_pinCommand ..⟩
    · exact execAread_endsDirectly a s
    · exact ⟨_, exec_setmode a m s, endsDirectly_pinCommand ..⟩
  obtain ⟨t, he, u, w, l, haccess, rfl⟩ := hend
  refine ⟨_, he, ?_⟩
  cases haccess with
  | none => exact ⟨rfl, rfl, rfl, rfl, rfl, rfl, rfl, rfl, rfl, ⟨w, rfl⟩, .inl ⟨rfl, rfl, rfl⟩⟩
  | one e => exact ⟨rfl, rfl, rfl, rfl, rfl, rfl, rfl, rfl, rfl, ⟨w, rfl⟩, .inr ⟨rfl, rfl, .inl ⟨e, rfl⟩⟩⟩
  | mux ch r => exact ⟨rfl, rfl, rfl, rfl, rfl, rfl, rfl, rfl, rfl, ⟨w, rfl⟩, .inr ⟨rfl, rfl, .inr ⟨ch, r, rfl⟩⟩⟩

end Sys2Proof.Machine
end

section
/-! SUPPORT. The tick (41_sampling.md R140, R141) and the sampling pass (R142 to R155): its order, the sequencer step
that is enabled, and each step of a pass as a whole next state. -/

namespace Sys2Proof.Machine

/-! ### The tick (R140, R141) -/

/-- Settles O18 (R140). -/
theorem tickEffect : Obligations.TickEffect := by
  refine ⟨by decide, fun s => ?_⟩
  show execTick s = _
  rw [execTick, tickIn_eq, respond_ok]
  rfl

/-- Settles O19 (R141). -/
theorem tickInputEffect : Obligations.TickInputEffect := by
  intro s more hin
  rw [step_tick hin, tickIn_eq]
  rfl

/-! ### The order of a pass and the events of a change (R143, R146, R147) -/

theorem nextCursor_digital {i j : Fin 64} (h : j.val = i.val + 1) : nextCursor (.digital i) = .digital j := by
  have hlt : i.val + 1 < 64 := h ▸ j.isLt
  rw [nextCursor, dif_pos hlt]
  exact congrArg Cursor.digital (Fin.ext h.symm)

theorem nextCursor_analog {i j : Fin 18} (h : j.val = i.val + 1) : nextCursor (.analog i) = .analog j := by
  have hlt : i.val + 1 < 18 := h ▸ j.isLt
  rw [nextCursor, dif_pos hlt]
  exact congrArg Cursor.analog (Fin.ext h.symm)

/-- Settles O23 (R143): the addresses fit their 8 bits, and each cursor's successor but the last of its space is in that
space. -/
theorem cursorOrder : Obligations.CursorOrder := by
  refine ⟨fun i => ?_, fun i => ?_, fun _ _ => nextCursor_digital, rfl, fun _ _ => nextCursor_analog, rfl⟩
  · have hlt : i.val + 1 < 2 ^ 8 := by omega
    rw [digitalAddr, BitVec.toNat_ofNat, Nat.mod_eq_of_lt hlt]
  · have hlt : (if i.val < 16 then i.val + 1 else i.val + 31) < 2 ^ 8 := by split_ifs <;> omega
    rw [analogAddr, BitVec.toNat_ofNat, Nat.mod_eq_of_lt hlt]

/-- Settles O24 (R146, R147): this block's `RISING_LEVEL` is 1 (00_scope.md R7). -/
theorem digitalEventsOfChange : Obligations.DigitalEventsOfChange :=
  ⟨fun _ _ _ => rfl, fun _ => ⟨rfl, rfl⟩⟩

/-! ### The enabled step (R153) -/

/-- The top frame is a dispatch frame whose `pos` is past its snapshot, which R31 excludes. -/
def BrokenTop (s : State) : Prop :=
  ∃ d rest, s.stack = .disp d :: rest ∧ d.sent = false ∧ d.snap.length < d.pos

/-- On a pass frame one step is enabled: to publish while an event is pending, else the cursor's (R144, R148, R150,
R152). -/
theorem seqStep_cases_pass {s : State} {p : PassFrame} {rest : List Frame} (hs : s.stack = .pass p :: rest) :
    ∃ k, (∀ j, seqEnabled j s = decide (j = k)) ∧ seqStep s = .next (seqEffect k s) := by
  have hstep : seqStep s = .next (passStep p rest s) := by rw [seqStep, hs]
  rw [hstep]
  obtain ⟨c, _ | ⟨e, more⟩⟩ := p
  · cases c with
    | digital i =>
      exact ⟨.sampleDigital, fun j => by cases j <;> simp [seqEnabled, hs], by simp [seqEffect, hs, passStep]⟩
    | analog i =>
      exact ⟨.sampleAnalog, fun j => by cases j <;> simp [seqEnabled, hs], by simp [seqEffect, hs, passStep]⟩
    | finished =>
      exact ⟨.passEnd, fun j => by cases j <;> simp [seqEnabled, hs], by simp [seqEffect, hs, passStep]⟩
  · exact ⟨.passPublish, fun j => by cases j <;> simp [seqEnabled, hs], by simp [seqEffect, hs, passStep]⟩

/-- Every state allows one sequencer step, which the sequencer takes, or none, and then the sequencer stops on a broken
frame or changes nothing. -/
theorem seqStep_cases (s : State) :
    (∃ k, (∀ j, seqEnabled j s = decide (j = k)) ∧ seqStep s = .next (seqEffect k s)) ∨
    ((∀ j, seqEnabled j s = false) ∧
      ((BrokenTop s ∧ seqStep s = .fault .brokenFrame) ∨ (¬ BrokenTop s ∧ seqStep s = .next s))) := by
  match hs : s.stack with
  | [] =>
    cases htick : s.tickPending with
    | true =>
      refine .inl ⟨.passStart, fun j => ?_, by simp [seqStep, seqEffect, hs, htick]⟩
      cases j <;> simp [seqEnabled, hs, htick]
    | false =>
      refine .inr ⟨fun j => ?_, .inr ⟨by simp [BrokenTop, hs], by simp [seqStep, hs, htick]⟩⟩
      cases j <;> simp [seqEnabled, hs, htick]
  | .pass p :: rest => exact .inl (seqStep_cases_pass hs)
  | .disp d :: rest =>
    have hstep : seqStep s = dispStep d rest s := by rw [seqStep, hs]
    rw [hstep]
    obtain ⟨hsent, he⟩ | ⟨hsent, l, hl, he⟩ | ⟨hsent, hpos, he⟩ | ⟨hsent, hpos, he⟩ := dispStep_cases d rest s
    · refine .inr ⟨fun j => ?_, .inr ⟨by simp [BrokenTop, hs, hsent], he⟩⟩
      cases j <;> simp [seqEnabled, hs, hsent]
    · obtain ⟨hpos, -⟩ := List.getElem?_eq_some_iff.1 hl
      refine .inl ⟨.deliver, fun j => ?_, by simp [seqEffect, hs, hl, he]⟩
      cases j <;> simp [seqEnabled, hs, hsent, hpos, hpos.ne]
    · refine .inl ⟨.complete, fun j => ?_, by simp [seqEffect, hs, he]⟩
      cases j <;> simp [seqEnabled, hs, hsent, hpos]
    · refine .inr ⟨fun j => ?_, .inl ⟨⟨d, rest, hs, hsent, hpos⟩, he⟩⟩
      cases j <;> simp [seqEnabled, hs, hsent, hpos.le, hpos.ne']

/-- Settles O45 (R153), by the step that is enabled, if any. -/
theorem atMostOneSeqStepEnabled : Obligations.AtMostOneSeqStepEnabled := by
  intro s
  obtain ⟨k, hk, hstep⟩ | ⟨hnone, hbroken⟩ := seqStep_cases s
  · have honly {j : SeqKind} (hj : seqEnabled j s = true) : j = k := of_decide_eq_true ((hk j).symm.trans hj)
    have henabled : seqEnabled k s = true := (hk k).trans (decide_eq_true rfl)
    refine ⟨fun j j' hj hj' => (honly hj).trans (honly hj').symm, fun _ => step_seq,
      fun j hj => honly hj ▸ hstep, fun hnone => ?_⟩
    exact absurd henabled (by simp [hnone k])
  · refine ⟨fun j _ hj => ?_, fun _ => step_seq, fun j hj => ?_, fun _ => ?_⟩
    · exact absurd hj (by simp [hnone j])
    · exact absurd hj (by simp [hnone j])
    · obtain ⟨hex, hstep⟩ | ⟨hnot, hstep⟩ := hbroken
      · exact ⟨fun _ => hstep, fun h => absurd hex h⟩
      · exact ⟨fun h => absurd h hnot, fun _ => hstep⟩

/-! ### The steps of a pass -/

/-- A move of the sequencer on a pass frame. -/
theorem step_pass {s : State} {p : PassFrame} {rest : List Frame} {more : List Input} (hs : s.stack = .pass p :: rest)
    (hin : s.inputs = .seq :: more) : step s = .next (passStep p rest { s with inputs := more }) := by
  rw [step_seq hin, seqStep, hs]

/-- Settles O22 (R142). -/
theorem passStartStep : Obligations.PassStartStep := by
  intro s more hs htick hin
  rw [step_seq hin, seqStep]
  simp only [hs, htick]
  rfl

/-- Settles O28 (R150, R183). -/
theorem passPublishStep : Obligations.PassPublishStep := by
  intro s c e more rest moves hs hin
  rw [step_pass hs hin]
  rfl

/-- Settles O29 (R152). -/
theorem passEndStep : Obligations.PassEndStep := by
  intro s rest more hs hin
  rw [step_pass hs hin]
  rfl

/-! ### The digital sample step (R144, R145, R151) -/

/-- The record of a failed read of the pass (R88). -/
theorem conditionRecord_busFail_pass (sp : Space) (a : Addr) :
    conditionRecord (.busFail sp a 0) = ((0x4 : BitVec 4) ++ spaceCode sp) ++ a ++ (0 : BitVec 48) := by
  rw [conditionRecord, packLog_pin]
  rfl

section
variable {s : State} {i : Fin 64} {d : Device} {idx : Nat} {rest : List Frame} {more : List Input}

/-- A failed read leaves the entry and logs the failure. -/
theorem step_sampleDigital_fail (hs : s.stack = .pass ⟨.digital i, []⟩ :: rest) (hin : s.inputs = .seq :: more)
    (hroute : routeD (digitalAddr i) = .dev d idx) (hr : levelOf (nextDraw s) = .fail) :
    step s = .next { dropDraw s with
      inputs := more
      stack := .pass ⟨nextCursor (.digital i), []⟩ :: rest
      devhist := s.devhist ++ [.devRead d idx .fail]
      log := s.log ++ [(0x40 : BitVec 8) ++ digitalAddr i ++ (0 : BitVec 48)] } := by
  have hr' : levelOf (nextDraw { s with inputs := more }) = .fail := hr
  rw [step_pass hs hin]
  simp only [passStep, sampleDigital, hroute, devRead_eq, hr', digitalSampled_fail, conditionRecord_busFail_pass]
  rfl

/-- A good read leaves its level in the entry, and queues the two events where the entry held the other level. -/
theorem step_sampleDigital_ok (hs : s.stack = .pass ⟨.digital i, []⟩ :: rest) (hin : s.inputs = .seq :: more)
    (hroute : routeD (digitalAddr i) = .dev d idx) {b : Bit} (hr : levelOf (nextDraw s) = .ok b) :
    step s = .next { dropDraw s with
      inputs := more
      dcache := s.dcache.set i.val (.held b) i.isLt
      stack := .pass ⟨nextCursor (.digital i),
        if s.dcache[i] = .empty ∨ s.dcache[i] = .held b then [] else digitalEvents s.cfg (digitalAddr i) b⟩ :: rest
      devhist := s.devhist ++ [.devRead d idx (.ok b)] } := by
  have hr' : levelOf (nextDraw { s with inputs := more }) = .ok b := hr
  rw [step_pass hs hin]
  simp only [passStep, sampleDigital, hroute, devRead_eq, hr', digitalSampled_ok]
  rfl

end

/-- An entry that holds another value is neither empty nor holds this one. -/
theorem ne_empty_and_ne_held {n : Nat} {e : CacheEntry n} {b c : BitVec n} (he : e = .held c) (h : c ≠ b) :
    ¬(e = .empty ∨ e = .held b) := by
  simp [he, h]

/-- Settles O25 (R144, R145), by the device's answer. -/
theorem digitalSampleStep : Obligations.DigitalSampleStep := by
  intro s i d idx rest more hs hin hroute
  cases hr : levelOf (nextDraw s) with
  | fail =>
    exact ⟨_, step_sampleDigital_fail hs hin hroute hr, rfl, rfl, rfl, rfl, rfl, rfl, rfl, rfl, rfl, rfl, rfl,
      fun _ _ => rfl, fun _ => ⟨rfl, rfl, rfl⟩, nofun⟩
  | ok b =>
    refine ⟨_, step_sampleDigital_ok hs hin hroute hr, rfl, rfl, rfl, rfl, rfl, rfl, rfl, rfl, rfl, rfl, rfl,
      fun j hj => Vector.getElem_set_ne i.isLt j.isLt fun hv => hj (Fin.ext hv.symm), nofun, ?_⟩
    rintro _ ⟨⟩
    refine ⟨Vector.getElem_set_self i.isLt, rfl, fun hold => ?_, fun c hc hne => ?_⟩
    · simp only [if_pos hold]
    · simp only [if_neg (ne_empty_and_ne_held hc hne)]

/-- An entry that holds no 1 is empty or holds 0. -/
theorem entry_of_ne_held_one {e : CacheEntry 1} (h : e ≠ .held 1) : e = .empty ∨ e = .held 0 := by
  cases e with
  | empty => exact .inl rfl
  | held c =>
    obtain rfl | rfl := c.eq_zero_or_eq_one
    · exact .inr rfl
    · exact absurd rfl h

/-- Settles O26 (R144, R151): a reserved address answers 0, and its entry is empty or holds 0. -/
theorem reservedSampleStep : Obligations.ReservedSampleStep := by
  intro s i rest more hs hin hi hne
  have hroute : routeD (digitalAddr i) = .reserved := (routeD_digitalAddr_reserved i).2 hi
  have hold : s.dcache[i] = .empty ∨ s.dcache[i] = .held 0 := entry_of_ne_held_one hne
  rw [step_pass hs hin]
  simp only [passStep, sampleDigital, hroute, digitalSampled_ok, if_pos hold]

/-- Settles O58 (R155, R145): the first look leaves its level in the entry, where the second finds it. -/
theorem consecutiveLooksQueueTheChange : Obligations.ConsecutiveLooksQueueTheChange := by
  intro s t u v i d idx x y rest rest' more more' hroute hs hin hx hst hentry hu hinu hy huv
  rw [step_sampleDigital_ok hs hin hroute hx] at hst
  rw [step_sampleDigital_ok hu hinu hroute hy] at huv
  cases hst
  cases huv
  have hheld : u.dcache[i] = .held x := hentry.trans (Vector.getElem_set_self i.isLt)
  by_cases hxy : x = y
  · simp only [hheld, hxy, or_true, if_true]
  · simp only [if_neg (ne_empty_and_ne_held hheld hxy), if_neg hxy]
    rfl

/-! ### The analog sample step (R148, R149) -/

/-- The answer the pass gets at the i-th analog address: a channel the multiplexer does not have answers 0 (20_memory.md
R56). -/
def analogAnswer (i : Fin 18) (s : State) : Answer 16 :=
  if i.val < 16 ∧ s.cfg.muxChannels ≤ i.val then .ok 0 else sampleOf s.cfg (nextDraw s)

/-- What an access to the i-th analog address records (20_memory.md R56, R58). -/
def analogRecords (i : Fin 18) (r : Answer 16) : List DevRecord :=
  if i.val < 16 then [.muxSelect (BitVec.ofNat 4 i.val), .muxRead (BitVec.ofNat 4 i.val) r]
  else [.adcRead (i.val - 15) r]

/-- The state after that access; a channel the multiplexer does not have takes none (R56). -/
def analogAccess (i : Fin 18) (s : State) : State :=
  if i.val < 16 ∧ s.cfg.muxChannels ≤ i.val then s
  else emitDev (analogRecords i (sampleOf s.cfg (nextDraw s))) (dropDraw s)

theorem sampleAnalog_eq (i : Fin 18) (rest : List Frame) (s : State) :
    sampleAnalog i rest s = analogSampled i rest (analogAnswer i s) (analogAccess i s) := by
  rw [sampleAnalog, routeA_analogAddr]
  by_cases hi : i.val < 16
  · have hch : (BitVec.ofNat 4 i.val).toNat = i.val := by simpa using hi
    simp [analogAnswer, analogAccess, analogRecords, muxAnswer, muxRead, hi, hch]
  · simp [analogAnswer, analogAccess, analogRecords, adcRead, hi]

/-- An access changes `DEVHIST` and the draws, whatever the moves to come. -/
theorem analogAccess_frame (i : Fin 18) (s : State) (more : List Input) :
    analogAccess i { s with inputs := more } =
      { s with
        inputs := more
        devhist := (analogAccess i s).devhist
        draws := (analogAccess i s).draws
        drawCount := (analogAccess i s).drawCount } := by
  unfold analogAccess
  split_ifs <;> rfl

section
variable {s : State} {i : Fin 18} {rest : List Frame} {more : List Input}

theorem analogAccess_cases {r : Answer 16} (hr : analogAnswer i s = r) :
    if i.val < 16 ∧ s.cfg.muxChannels ≤ i.val then
      r = .ok 0 ∧ (analogAccess i s).devhist = s.devhist ∧ (analogAccess i s).draws = s.draws ∧
        (analogAccess i s).drawCount = s.drawCount
    else
      r = sampleOf s.cfg (nextDraw s) ∧ (analogAccess i s).draws = (dropDraw s).draws ∧
        (analogAccess i s).drawCount = (dropDraw s).drawCount ∧
        (analogAccess i s).devhist = s.devhist ++ analogRecords i r := by
  subst hr
  unfold analogAnswer analogAccess
  split_ifs
  · exact ⟨rfl, rfl, rfl, rfl⟩
  · exact ⟨rfl, rfl, rfl, rfl⟩

/-- A failed read leaves the entry and logs the failure. -/
theorem step_sampleAnalog_fail (hs : s.stack = .pass ⟨.analog i, []⟩ :: rest) (hin : s.inputs = .seq :: more)
    (hr : analogAnswer i s = .fail) :
    step s = .next { s with
      inputs := more
      stack := .pass ⟨nextCursor (.analog i), []⟩ :: rest
      log := s.log ++ [(0x41 : BitVec 8) ++ analogAddr i ++ (0 : BitVec 48)]
      devhist := (analogAccess i s).devhist
      draws := (analogAccess i s).draws
      drawCount := (analogAccess i s).drawCount } := by
  have hr' : analogAnswer i { s with inputs := more } = .fail := hr
  rw [step_pass hs hin]
  simp only [passStep, sampleAnalog_eq, analogAccess_frame, hr', analogSampled_fail, conditionRecord_busFail_pass]
  rfl

/-- A good read leaves its sample in the entry, and queues the event where the entry held another one. -/
theorem step_sampleAnalog_ok (hs : s.stack = .pass ⟨.analog i, []⟩ :: rest) (hin : s.inputs = .seq :: more)
    {v : Value} (hr : analogAnswer i s = .ok v) :
    step s = .next { s with
      inputs := more
      acache := s.acache.set i.val (.held v) i.isLt
      stack := .pass ⟨nextCursor (.analog i),
        if s.acache[i] = .empty ∨ s.acache[i] = .held v then [] else analogEvents (analogAddr i) v⟩ :: rest
      devhist := (analogAccess i s).devhist
      draws := (analogAccess i s).draws
      drawCount := (analogAccess i s).drawCount } := by
  have hr' : analogAnswer i { s with inputs := more } = .ok v := hr
  rw [step_pass hs hin]
  simp only [passStep, sampleAnalog_eq, analogAccess_frame, hr', analogSampled_ok]

end

/-- Settles O27 (R148, R149, R56), by the answer. -/
theorem analogSampleStep : Obligations.AnalogSampleStep := by
  intro s i rest more hs hin
  cases hr : analogAnswer i s with
  | fail =>
    exact ⟨_, _, step_sampleAnalog_fail hs hin hr, analogAccess_cases hr, rfl, rfl, rfl, rfl, rfl, rfl, rfl, rfl,
      fun _ _ => rfl, fun _ => ⟨rfl, rfl, rfl⟩, nofun⟩
  | ok v =>
    refine ⟨_, _, step_sampleAnalog_ok hs hin hr, analogAccess_cases hr, rfl, rfl, rfl, rfl, rfl, rfl, rfl, rfl,
      fun j hj => Vector.getElem_set_ne i.isLt j.isLt fun hv => hj (Fin.ext hv.symm), nofun, ?_⟩
    rintro _ ⟨⟩
    refine ⟨Vector.getElem_set_self i.isLt, rfl, fun hold => ?_, fun u hu hne => ?_⟩
    · simp only [if_pos hold]
    · simp only [if_neg (ne_empty_and_ne_held hu hne)]
      rfl

end Sys2Proof.Machine
end

section
/-! SUPPORT. A dispatch from its first delivery to its end (42_event_bus.md R184 to R189), and what a changed pin
publishes (41_sampling.md R155). -/

namespace Sys2Proof.Machine

/-! ### Several steps -/

/-- Steps in a row, the second part going on from where the first ends. -/
theorem steps_add {m n : Nat} {s t : State} (h : steps m s = .next t) : steps (m + n) s = steps n t := by
  induction m generalizing s with
  | zero =>
    cases h
    rw [Nat.zero_add]
  | succ m ih =>
    rw [Nat.add_right_comm, steps]
    rw [steps] at h
    cases hs : step s with
    | next u =>
      rw [hs] at h
      exact ih h
    | fault r => simp [hs] at h
    | refused r => simp [hs] at h

theorem steps_one (s : State) : steps 1 s = step s := by
  simp only [steps]
  cases step s <;> rfl

/-! ### The steps of a dispatch -/

section
variable {s : State} {d : DispFrame} {rest : List Frame} {more : List Input}

/-- The deliver step (R184). -/
theorem step_deliver {l : Listener} (hs : s.stack = .disp d :: rest) (hin : s.inputs = .seq :: more)
    (hsent : d.sent = false) (hl : d.snap[d.pos]? = some l) :
    step s = .next { s with
      inputs := more
      stack := .disp { d with sent := true } :: rest
      deliv := s.deliv ++ [packDelivery l d.key d.value] } := by
  rw [step_seq hin, seqStep, hs]
  simp only [dispStep, hsent, hl]
  rfl

/-- Past its last listener a dispatch is popped, and a `PUB` answered (R186). -/
theorem step_complete (hs : s.stack = .disp d :: rest) (hin : s.inputs = .seq :: more) (hsent : d.sent = false)
    (hpos : d.pos = d.snap.length) :
    step s = .next { s with
      inputs := more
      stack := rest
      resp := s.resp ++ (if d.origin = .host then [packResponse .ok (BitVec.ofNat 12 d.snap.length) 0] else []) } := by
  have hnone : d.snap[d.pos]? = none := List.getElem?_eq_none hpos.ge
  rw [step_seq hin, seqStep, hs]
  simp only [dispStep, hsent, hnone, if_pos hpos, complete]
  cases d.origin
  · simp [setStack]
  · rfl

/-- The ACK of an awaited delivery to l (R185). -/
theorem exec_ack_awaited {l : Listener} (f : Bit) (hs : s.stack = .disp d :: rest) (hsent : d.sent = true)
    (hl : d.snap[d.pos]? = some l) :
    exec (.ack f) s = .next { s with
      stack := .disp { d with pos := d.pos + 1, sent := false } :: rest
      log := s.log ++ faultRecords d.key d.value d.pos [(l, f)] } := by
  rw [exec, execAck, hs]
  by_cases hf : f = 1
  · simp [hsent, hf, hl, raise_eq, setStack, faultRecords, conditionRecord, conditionStatus]
  · simp only [hsent, hf, faultRecords]
    simp [setStack]

/-- One delivery and its ACK. -/
theorem steps_deliver_ack {l : Listener} {f : Bit} (hs : s.stack = .disp d :: rest)
    (hin : s.inputs = .seq :: .host (encode (.ack f)) :: more) (hsent : d.sent = false)
    (hl : d.snap[d.pos]? = some l) :
    steps 2 s = .next { s with
      inputs := more
      stack := .disp { d with pos := d.pos + 1, sent := false } :: rest
      deliv := s.deliv ++ [packDelivery l d.key d.value]
      log := s.log ++ faultRecords d.key d.value d.pos [(l, f)] } := by
  rw [steps_of_next (step_deliver hs hin hsent hl), steps_one, step_host rfl rfl,
    takeWord_of_decode (decodeOfEncode _)]
  exact exec_ack_awaited (d := { d with sent := true }) f rfl rfl hl

end

theorem ackMoves_cons (f : Bit) (fs : List Bit) :
    ackMoves (f :: fs) = .seq :: .host (encode (.ack f)) :: ackMoves fs := rfl

theorem faultRecords_cons (k : Key) (v : Value) (pos : Nat) (p : Listener × Bit) (ps : List (Listener × Bit)) :
    faultRecords k v pos (p :: ps) = faultRecords k v pos [p] ++ faultRecords k v (pos + 1) ps := by
  simp [faultRecords]

/-- A dispatch goes through the listeners from `pos` on, each acknowledged, and ends: they get their deliveries in
order, whatever each returns (R184 to R188). -/
theorem steps_dispatch {s : State} {d : DispFrame} {rest : List Frame} {fs : List Bit} {more : List Input}
    (hs : s.stack = .disp d :: rest) (hsent : d.sent = false) (hlen : d.pos + fs.length = d.snap.length)
    (hin : s.inputs = ackMoves fs ++ .seq :: more) :
    steps (2 * fs.length + 1) s = .next { s with
      inputs := more
      stack := rest
      deliv := s.deliv ++ (d.snap.drop d.pos).map (fun l => packDelivery l d.key d.value)
      log := s.log ++ faultRecords d.key d.value d.pos ((d.snap.drop d.pos).zip fs)
      resp := s.resp ++ (if d.origin = .host then [packResponse .ok (BitVec.ofNat 12 d.snap.length) 0] else []) } := by
  induction fs generalizing s d with
  | nil =>
    have hpos : d.pos = d.snap.length := hlen
    rw [List.length_nil, Nat.mul_zero, steps_one, step_complete hs hin hsent hpos, hpos]
    simp [faultRecords]
  | cons f fs ih =>
    rw [List.length_cons] at hlen ⊢
    have hpos : d.pos < d.snap.length := by omega
    have hfaults := faultRecords_cons d.key d.value d.pos (d.snap[d.pos], f) ((d.snap.drop (d.pos + 1)).zip fs)
    have hround := steps_deliver_ack hs hin hsent (List.getElem?_eq_getElem hpos)
    rw [show 2 * (fs.length + 1) + 1 = 2 + (2 * fs.length + 1) by omega, steps_add hround,
      ih rfl rfl (show d.pos + 1 + fs.length = d.snap.length by omega) rfl, List.drop_eq_getElem_cons hpos,
      List.map_cons, List.zip_cons_cons, hfaults]
    simp only [List.append_assoc, List.singleton_append]

/-! ### A pass publishing its events (41_sampling.md R150, R155) -/

/-- The pass publishes its first pending event, and the event's listeners get it in subscription order. -/
theorem steps_passPublish {s : State} {c : Cursor} {e : Event} {pending : List Event} {rest : List Frame}
    {fs : List Bit} {more : List Input} (hs : s.stack = .pass ⟨c, e :: pending⟩ :: rest)
    (hlen : fs.length = (snapshot e.key s).length) (hin : s.inputs = .seq :: (ackMoves fs ++ .seq :: more)) :
    steps (2 * fs.length + 2) s = .next { s with
      inputs := more
      stack := .pass ⟨c, pending⟩ :: rest
      deliv := s.deliv ++ (snapshot e.key s).map (fun l => packDelivery l e.key e.value)
      log := s.log ++ publishRecord e.key e.value (snapshot e.key s).length ::
        faultRecords e.key e.value 0 ((snapshot e.key s).zip fs) } := by
  have hpublish : step s = .next { s with
      inputs := ackMoves fs ++ .seq :: more
      stack := .disp ⟨e.key, e.value, snapshot e.key s, 0, false, .pass⟩ :: .pass ⟨c, pending⟩ :: rest
      log := s.log ++ [publishRecord e.key e.value (snapshot e.key s).length] } :=
    passPublishStep s c e pending rest _ hs hin
  rw [steps_of_next hpublish, steps_dispatch rfl rfl ((Nat.zero_add _).trans hlen) rfl]
  simp

/-- Settles O56 (R155, 20_memory.md R67, R68): the sample step queues the two events, and the pass publishes the one
and then the other. -/
theorem changedPinPublishesEdgeThenChange : Obligations.ChangedPinPublishesEdgeThenChange := by
  intro s i d idx x y edge change more ke kc le lc hs hroute hx hy hne hke hkc hle hlc hedge hchange hin
  subst hke hkc hle hlc
  have hsample := step_sampleDigital_ok hs hin hroute hy
  rw [if_neg (ne_empty_and_ne_held hx hne)] at hsample
  rw [show 2 * edge.length + 2 * change.length + 5 = (2 * edge.length + 2) + (2 * change.length + 2) + 1 by omega,
    steps_of_next hsample, steps_add (steps_passPublish rfl hedge rfl), steps_passPublish rfl hchange rfl]
  rfl

end Sys2Proof.Machine
end

section
/-! SUPPORT. The event bus (42_event_bus.md): the words of its conditions, each command as a whole next state, the
steps of a dispatch, and what becomes of the registry and of the frames of `STACK`. -/

namespace Sys2Proof.Machine

/-! ### Records of the bus (30_encoding.md R88) -/

/-- The record of a condition of a registry pair. -/
theorem packLog_pair (type : BitVec 4) (k : Key) (l : Listener) :
    packLog type k.kind k.addr l 0 0 = type ++ k.kind ++ k.addr ++ l ++ (0 : BitVec 32) := by
  apply BitVec.eq_of_toNat_eq
  simp only [packLog, append_toNat, BitVec.ofNat_eq_ofNat, BitVec.toNat_zero]
  omega

/-- The record of an ACK that none awaits carries its word, whose last bit is the fault bit (42_event_bus.md R185). -/
theorem conditionRecord_illegal_ack (f : Bit) :
    conditionRecord (.illegal (encode (.ack f))) = (0x800000008000000 : BitVec 60) ++ (0 : BitVec 3) ++ f := by
  obtain rfl | rfl := f.eq_zero_or_eq_one <;> decide

/-- The count of a `PUBLISH` record stands in its low sixteen bits. -/
theorem publishRecord_toNat_mod (k : Key) (v : Value) (count : Nat) :
    (publishRecord k v count).toNat % 65536 = count % 65536 := by
  rw [publishRecord, packLog, append_toNat, BitVec.toNat_ofNat]
  omega

/-- One listener's return logs a record when it is a fault, and nothing otherwise (R185). -/
theorem faultRecords_singleton (k : Key) (v : Value) (pos : Nat) (l : Listener) (f : Bit) :
    faultRecords k v pos [(l, f)] =
      if f = 1 then [(0x1 : BitVec 4) ++ k.kind ++ k.addr ++ l ++ v ++ BitVec.ofNat 16 pos] else [] :=
  List.append_nil _

/-! ### The commands (R180 to R185) -/

/-- Settles O31 (R180), by the duplicate test and then the capacity test. -/
theorem subEffect : Obligations.SubEffect := by
  intro k l s
  refine ⟨rfl, fun hmem => ?_, fun hmem hfull => ?_, fun hmem hroom => ?_⟩
  · rw [exec, execSub, if_pos hmem, raise_eq, ← packLog_pair]
    rfl
  · rw [exec, execSub, if_neg hmem, if_pos hfull, raise_eq, ← packLog_pair]
    rfl
  · rw [exec, execSub, if_neg hmem, if_neg hroom, respond_ok]
    rfl

/-- Settles O32 (R181): the entry that goes is the first of its pair. -/
theorem unsubEffect : Obligations.UnsubEffect := by
  intro k l s
  refine ⟨rfl, fun hmem => ?_, fun front back hreg hfront => ?_⟩
  · rw [exec, execUnsub, if_neg hmem, raise_eq, ← packLog_pair]
    rfl
  · have hmem : (⟨k, l⟩ : SubEntry) ∈ s.registry := hreg ▸ List.mem_append_cons_self
    rw [exec, execUnsub, if_pos hmem, respond_ok, hreg, List.erase_append_right _ hfront, List.erase_cons_head]
    rfl

/-- Settles O33 (R182, R183), by the depth test. -/
theorem pubEffect : Obligations.PubEffect := by
  intro k v s
  refine ⟨rfl, fun hfull => ?_, fun hroom snap hsnap => ?_⟩
  · rw [exec, execPub, if_pos hfull, raise_eq]
    rfl
  · rw [exec, execPub, if_neg hroom, publish_eq, hsnap]
    rfl

/-- An ACK that none awaits is illegal (R185). -/
theorem exec_ack_not_awaited (f : Bit) {s : State} (h : ∀ d rest, s.stack = .disp d :: rest → d.sent = false) :
    exec (.ack f) s = .next (raise true (.illegal (encode (.ack f))) s) := by
  have hnot {d : DispFrame} {rest : List Frame} (hs : s.stack = .disp d :: rest) : d.sent ≠ true := by
    simp [h d rest hs]
  obtain ⟨d, rest, hs, hsent, -⟩ | ⟨d, rest, -, hs, hsent, -⟩ | ⟨-, he⟩ | ⟨d, rest, hs, hsent, -⟩ := execAck_cases f s
  · exact absurd hsent (hnot hs)
  · exact absurd hsent (hnot hs)
  · exact he
  · exact absurd hsent (hnot hs)

/-- Settles O36 (R185), by whether a delivery is awaited. -/
theorem ackEffect : Obligations.AckEffect := by
  refine ⟨by decide, by decide, fun f s d l rest hs hsent hl => ?_, fun f s hnone => ?_⟩
  · rw [exec_ack_awaited f hs hsent hl, faultRecords_singleton]
  · rw [exec_ack_not_awaited f hnone, raise_eq, conditionRecord_illegal_ack]
    rfl

/-- An accepting block that is not idle awaits the ACK of its top frame (10_state.md R35). -/
theorem exists_awaited {s : State} (ha : accepting s = true) (hs : s.stack ≠ []) :
    ∃ d rest, s.stack = .disp d :: rest ∧ d.sent = true := by
  unfold accepting at ha
  split at ha
  · contradiction
  · exact ⟨_, _, ‹_›, ha⟩
  · contradiction

/-- Settles O38 (R188): both ACKs move the frame on alike, and only the fault is logged. -/
theorem listenerFaultIsIsolated : Obligations.ListenerFaultIsIsolated := by
  intro s t h ha hstack
  obtain ⟨-, -, -, -, hclean, -⟩ | ⟨d, rest, l, hs, hsent, -, hl, -⟩ | ⟨hnone, -⟩ | ⟨-, -, -, -, -, he⟩ :=
    execAck_cases 1 s
  · contradiction
  · cases (exec_ack_awaited 1 hs hsent hl).symm.trans h
    refine ⟨_, ?_, by rw [faultRecords_singleton, if_pos rfl], rfl⟩
    rw [exec_ack_awaited 0 hs hsent hl, faultRecords_singleton, if_neg (by decide), List.append_nil]
  · obtain ⟨d, rest, hs, hsent⟩ := exists_awaited ha hstack
    simp [hnone d rest hs] at hsent
  · cases he.symm.trans h

/-! ### The registry (R193) -/

/-- Settles O39 (R193.1): the pair is present, so the second `SUB` reports it and changes no registry. -/
theorem subscribeTwice : Obligations.SubscribeTwice := by
  intro s t k l _ hmem
  obtain ⟨-, hdup, -⟩ := subEffect k l t
  exact ⟨_, hdup hmem, rfl, rfl, snapshot_congr rfl⟩

/-- A `SUB` repeats no entry and changes the membership of no other pair. -/
theorem execSub_registry {k : Key} {l : Listener} {s t : State} (hnodup : s.registry.Nodup)
    (h : exec (.sub k l) s = .next t) :
    t.registry.Nodup ∧ ∀ e : SubEntry, e ≠ ⟨k, l⟩ → (e ∈ t.registry ↔ e ∈ s.registry) := by
  obtain ⟨-, hdup, hfull, hnew⟩ := subEffect k l s
  by_cases hmem : (⟨k, l⟩ : SubEntry) ∈ s.registry
  · cases (hdup hmem).symm.trans h
    exact ⟨hnodup, fun _ _ => .rfl⟩
  · by_cases hcap : s.registry.length = s.cfg.subCapacity
    · cases (hfull hmem hcap).symm.trans h
      exact ⟨hnodup, fun _ _ => .rfl⟩
    · cases (hnew hmem hcap).symm.trans h
      exact ⟨List.concat_eq_append ▸ hnodup.concat hmem, fun e he => by simp [he]⟩

/-- An `UNSUB` leaves the registry without the first entry of its pair. -/
theorem execUnsub_registry {k : Key} {l : Listener} {s t : State} (h : exec (.unsub k l) s = .next t) :
    t.registry = s.registry.erase ⟨k, l⟩ := by
  cases h
  split_ifs with hmem
  · rfl
  · rw [List.erase_of_not_mem hmem, raise_eq]

/-- Settles O40 (R193.2): without repeats, erasing the pair leaves none of it. -/
theorem subscribeThenUnsubscribe : Obligations.SubscribeThenUnsubscribe := by
  intro s t u k l hnodup hsub hunsub
  obtain ⟨htNodup, hother⟩ := execSub_registry hnodup hsub
  simp only [mem_snapshot, execUnsub_registry hunsub]
  refine ⟨htNodup.not_mem_erase, fun k' l' hne => ?_⟩
  have hne' : (⟨k', l'⟩ : SubEntry) ≠ ⟨k, l⟩ := by simpa using hne
  rw [List.mem_erase_of_ne hne', hother _ hne']

/-- A snapshot has as many listeners as the registry has entries under its key (10_state.md R28). -/
theorem snapshot_length (k : Key) (s : State) :
    (snapshot k s).length = s.registry.countP (fun e => e.key = k) := by
  rw [snapshot, List.length_map, List.countP_eq_length_filter]
  rfl

/-- Settles O41 (R189): so many entries fit the sixteen bits of the record's count. -/
theorem countIsMatchingEntries : Obligations.CountIsMatchingEntries := by
  intro s t k v hcap hroom h
  obtain ⟨-, -, hpub⟩ := pubEffect k v s
  cases (hpub hroom (snapshot k s) rfl).symm.trans h
  have hle : (snapshot k s).length < 65536 := by
    have := snapshot_length_le k s
    omega
  refine ⟨_, publishRecord k v (snapshot k s).length, rfl, rfl, snapshot_length k s, ?_⟩
  rw [publishRecord_toNat_mod, Nat.mod_eq_of_lt hle, snapshot_length]

/-! ### The steps of a dispatch (R184 to R188) -/

/-- Settles O34 (R184). -/
theorem deliverStep : Obligations.DeliverStep := by
  intro s d l rest more hs hin hsent hl
  exact step_deliver hs hin hsent hl

/-- Settles O35 (R186). -/
theorem completeStep : Obligations.CompleteStep := by
  intro s d rest more hs hin hsent hpos
  exact step_complete hs hin hsent hpos

/-- Settles O42 (R184 to R189): the run of `steps_dispatch` from the first listener. -/
theorem dispatchDeliversSnapshot : Obligations.DispatchDeliversSnapshot := by
  intro s d rest fs more hs hpos hsent hlen hin
  have hrun := steps_dispatch hs hsent (by rw [hpos, Nat.zero_add, hlen]) hin
  rw [hpos, List.drop_zero] at hrun
  exact hrun

/-! ### The frames of `STACK` (R187, R183, 10_state.md R34) -/

/-- What a step that is no reset may do to `STACK`: nothing, pop or push a frame, move a pass on, publish one of its
events, or move a dispatch on within its snapshot. -/
inductive StackMove : List Frame → List Frame → Prop
  | keep (st : List Frame) : StackMove st st
  | pop (f : Frame) (rest : List Frame) : StackMove (f :: rest) rest
  | push (f : Frame) (st : List Frame) : StackMove st (f :: st)
  | pass (c c' : Cursor) (p p' : List Event) (rest : List Frame) :
      StackMove (.pass ⟨c, p⟩ :: rest) (.pass ⟨c', p'⟩ :: rest)
  | publish (c : Cursor) (e : Event) (more : List Event) (d : DispFrame) (rest : List Frame) :
      StackMove (.pass ⟨c, e :: more⟩ :: rest) (.disp d :: .pass ⟨c, more⟩ :: rest)
  | disp (d : DispFrame) (pos : Nat) (sent : Bool) (rest : List Frame) :
      StackMove (.disp d :: rest) (.disp { d with pos := pos, sent := sent } :: rest)

theorem stackMove_of_eq {s t : State} (h : t.stack = s.stack) : StackMove s.stack t.stack := h ▸ .keep _

/-- A command keeps the stack, but for an ACK, which moves its dispatch on, and a `PUB`, which pushes one. -/
theorem exec_stackMove {i : Instr} {s t : State} (h : exec i s = .next t) : StackMove s.stack t.stack := by
  obtain ⟨-, -, ⟨-, -, hstack⟩ | ⟨-, ⟨f, rfl, ha, hne⟩ | ⟨k, v, rfl, hroom⟩⟩⟩ := oneResponseOneRecord i s t h
  · exact stackMove_of_eq hstack
  · obtain ⟨d, rest, hs, -, -, he⟩ | ⟨d, rest, l, hs, -, -, -, he⟩ | ⟨-, he⟩ | ⟨-, -, -, -, -, he⟩ :=
      execAck_cases f s <;> cases he.symm.trans h
    · exact hs ▸ .disp ..
    · exact hs ▸ .disp ..
    · exact stackMove_of_eq (raise_stack ..)
  · obtain ⟨-, -, hpub⟩ := pubEffect k v s
    cases (hpub hroom _ rfl).symm.trans h
    exact .push ..

theorem takeWord_stackMove {w : Word} {s t : State} (h : takeWord w s = .next t) : StackMove s.stack t.stack := by
  unfold takeWord at h
  split at h
  · exact exec_stackMove h
  · cases h
    exact stackMove_of_eq (raise_stack ..)

/-- A sample step goes to the next cursor, with or without events (41_sampling.md R145, R149). -/
theorem sampleDigital_stack (i : Fin 64) (rest : List Frame) (s : State) :
    ∃ pending, (sampleDigital i rest s).stack = .pass ⟨nextCursor (.digital i), pending⟩ :: rest := by
  obtain ⟨r, u, he, -, -⟩ := sampleDigital_cases i rest s
  rw [he]
  cases r with
  | fail => exact ⟨_, by rw [digitalSampled_fail]⟩
  | ok b => exact ⟨_, by rw [digitalSampled_ok]⟩

theorem sampleAnalog_stack (i : Fin 18) (rest : List Frame) (s : State) :
    ∃ pending, (sampleAnalog i rest s).stack = .pass ⟨nextCursor (.analog i), pending⟩ :: rest := by
  obtain ⟨r, u, he, -, -⟩ := sampleAnalog_cases i rest s
  rw [he]
  cases r with
  | fail => exact ⟨_, by rw [analogSampled_fail]⟩
  | ok v => exact ⟨_, by rw [analogSampled_ok]⟩

theorem passStep_stackMove (p : PassFrame) (rest : List Frame) (s : State) :
    StackMove (.pass p :: rest) (passStep p rest s).stack := by
  obtain ⟨e, more, hp, he⟩ | ⟨i, rfl, he⟩ | ⟨i, rfl, he⟩ | ⟨rfl, he⟩ := passStep_cases p rest s <;> rw [he]
  · obtain ⟨c, pending⟩ := p
    cases hp
    exact .publish ..
  · obtain ⟨pending, hstack⟩ := sampleDigital_stack i rest s
    exact hstack ▸ .pass ..
  · obtain ⟨pending, hstack⟩ := sampleAnalog_stack i rest s
    exact hstack ▸ .pass ..
  · exact .pop ..

theorem dispStep_stackMove {d : DispFrame} {rest : List Frame} {s t : State} (hs : s.stack = .disp d :: rest)
    (h : dispStep d rest s = .next t) : StackMove s.stack t.stack := by
  obtain ⟨-, he⟩ | ⟨-, l, -, he⟩ | ⟨-, -, he⟩ | ⟨-, -, he⟩ := dispStep_cases d rest s <;> cases he.symm.trans h
  · exact .keep _
  · exact hs ▸ .disp ..
  · rw [complete_frame, hs]
    exact .pop ..

theorem seqStep_stackMove {s t : State} (h : seqStep s = .next t) : StackMove s.stack t.stack := by
  unfold seqStep at h
  split at h
  case h_1 hs =>
    split_ifs at h <;> cases h
    · exact hs ▸ .push ..
    · exact .keep _
  case h_2 p rest hs =>
    cases h
    exact hs ▸ passStep_stackMove p rest s
  case h_3 hs => exact dispStep_stackMove hs h

theorem step_stackMove {s t : State} (h : step s = .next t) (hreset : nextInput s ≠ .reset) :
    StackMove s.stack t.stack := by
  obtain ⟨-, he⟩ | ⟨hn, -⟩ | ⟨w, -, -, he⟩ | ⟨-, he⟩ | ⟨w, -, -, he⟩ := step_cases s
  · cases he.symm.trans h
    exact stackMove_of_eq (by rw [tickIn_eq, dropInput_stack])
  · exact absurd hn hreset
  · exact (takeWord_stackMove (he.symm.trans h) :)
  · exact (seqStep_stackMove (he.symm.trans h) :)
  · exact (seqStep_stackMove (he.symm.trans h) :)

/-- Settles O54 (R187, R183), by the move of the stack. -/
theorem dispatchKeepsItsSnapshot : Obligations.DispatchKeepsItsSnapshot := by
  intro s t h hreset
  have hmove := step_stackMove h hreset
  generalize s.stack = st at hmove ⊢
  generalize t.stack = st' at hmove ⊢
  cases hmove with
  | keep => exact .inl rfl
  | pop f rest => exact .inr (.inl ⟨f, _, rfl, rfl⟩)
  | push f => exact .inr (.inr (.inl ⟨f, rfl⟩))
  | pass c c' p p' rest => exact .inr (.inr (.inr (.inl ⟨c, p, c', p', rest, rfl, rfl⟩)))
  | publish c e more d rest => exact .inr (.inr (.inr (.inr (.inl ⟨c, e, more, d, rest, rfl, rfl⟩))))
  | disp d pos sent rest => exact .inr (.inr (.inr (.inr (.inr ⟨d, rest, pos, sent, rfl, rfl⟩))))

end Sys2Proof.Machine
end

section
/-! SUPPORT. Exceptions (60_exceptions.md): words that are no command (R238), a sequencer with nothing to do (R251,
70_reset_and_hazards.md R268), when it has a step (R243), and that no condition stops the block (R240). -/

namespace Sys2Proof.Machine

/-! ### An illegal word (R238) -/

theorem conditionRecord_illegal (w : Word) : conditionRecord (.illegal w) = (0x80000000 : BitVec 32) ++ w := rfl

/-- Taking a word that is no command, or an ACK while idle, raises `Illegal` with that word: the word
an ACK encodes to is the one that was sent (30_encoding.md R82). -/
theorem takeWord_illegal {w : Word} {s : State}
    (h : (∃ c, decode w = .error c) ∨ (s.stack = [] ∧ ∃ f, decode w = .ok (.ack f))) :
    takeWord w s = .next (raise true (.illegal w) s) := by
  obtain ⟨c, hw⟩ | ⟨hidle, f, hw⟩ := h
  · simp [takeWord, hw]
  · rw [takeWord_of_decode hw, exec_ack_not_awaited f (by simp [hidle]), encodeOfDecode w _ hw]

/-- Settles O37 (R238). -/
theorem illegalWordStep : Obligations.IllegalWordStep := by
  intro s w more ha hin hillegal
  rw [step_host hin ha, takeWord_illegal (s := { s with inputs := more }) hillegal, raise_eq, conditionRecord_illegal]
  rfl

/-! ### The sequencer's step on an accepting block (R243, R251) -/

/-- Settles O30 (R251, 70_reset_and_hazards.md R268), by what the block waits for: a tick or an ACK. -/
theorem sequencerWaits : Obligations.SequencerWaits := by
  intro s more hin hwait
  rw [step_seq hin, seqStep]
  obtain ⟨hs, htick⟩ | ⟨d, rest, hs, hsent⟩ := hwait
  · simp [hs, htick]
  · simp [hs, dispStep, hsent]

/-- An accepting block is idle or awaits an ACK, so the one step it may allow is a pass start (41_sampling.md R142). -/
theorem seqEnabled_iff_of_accepting {s : State} (ha : accepting s = true) (k : SeqKind) :
    seqEnabled k s = true ↔ k = .passStart ∧ s.stack = [] ∧ s.tickPending = true := by
  by_cases hs : s.stack = []
  · cases k <;> simp [seqEnabled, hs]
  · obtain ⟨d, rest, hs, hsent⟩ := exists_awaited ha hs
    cases k <;> simp [seqEnabled, hs, hsent]

/-- A dispatch frame on top has its `pos` within its snapshot (10_state.md R31). -/
theorem BlockInv.pos_le {s : State} (h : BlockInv s) {d : DispFrame} {rest : List Frame}
    (hs : s.stack = .disp d :: rest) : d.pos ≤ d.snap.length := by
  obtain ⟨hd, -, -⟩ := stackLegal_disp.1 (h.frames_of_eq hs)
  obtain ⟨hpos, -⟩ := dispLegal_iff.1 hd
  exact hpos

/-- On a block that is not accepting the sequencer always has a step: a pass goes on, and a dispatch delivers or
completes. -/
theorem exists_seqEnabled_of_not_accepting {s : State} (h : BlockInv s) (ha : accepting s = false) :
    ∃ k, seqEnabled k s = true := by
  match hs : s.stack with
  | [] => simp [accepting, hs] at ha
  | .pass p :: rest =>
    obtain ⟨k, hk, -⟩ := seqStep_cases_pass hs
    exact ⟨k, (hk k).trans (decide_eq_true rfl)⟩
  | .disp d :: rest =>
    have hsent : d.sent = false := by simpa [accepting, hs] using ha
    obtain hlt | hend := (h.pos_le hs).lt_or_eq
    · exact ⟨.deliver, by simp [seqEnabled, hs, hsent, hlt]⟩
    · exact ⟨.complete, by simp [seqEnabled, hs, hsent, hend]⟩

/-- Settles O46 (R243), by whether the block is accepting. -/
theorem seqEnabledExactlyWhenNotAccepting : Obligations.SeqEnabledExactlyWhenNotAccepting := by
  intro s h
  refine ⟨?_, fun ha k hk => ((seqEnabled_iff_of_accepting ha k).1 hk).1⟩
  cases ha : accepting s with
  | false => simpa using exists_seqEnabled_of_not_accepting h ha
  | true => simp [seqEnabled_iff_of_accepting ha]

/-! ### Nothing stops the block (R240) -/

/-- Only an ACK can stop, on an awaited frame whose `pos` is no listener's, which the invariant excludes. -/
theorem exists_next_exec {s : State} (h : BlockInv s) (i : Instr) : ∃ t, exec i s = .next t := by
  cases i with
  | ack f =>
    obtain ⟨d, rest, -, -, -, he⟩ | ⟨d, rest, l, -, -, -, -, he⟩ | ⟨-, he⟩ | ⟨d, rest, hs, hsent, hnone, -⟩ :=
      execAck_cases f s
    · exact ⟨_, he⟩
    · exact ⟨_, he⟩
    · exact ⟨_, he⟩
    · exact absurd (h.pos_lt_of_sent hs hsent) (List.getElem?_eq_none_iff.1 hnone).not_gt
  | _ => exact ⟨_, rfl⟩

theorem exists_next_takeWord {s : State} (h : BlockInv s) (w : Word) : ∃ t, takeWord w s = .next t := by
  unfold takeWord
  split
  · exact exists_next_exec h _
  · exact ⟨_, rfl⟩

theorem exists_next_seqStep {s : State} (h : BlockInv s) : ∃ t, seqStep s = .next t := by
  obtain ⟨k, -, he⟩ | ⟨-, ⟨hbroken, -⟩ | ⟨-, he⟩⟩ := seqStep_cases s
  · exact ⟨_, he⟩
  · obtain ⟨d, rest, hs, -, hpast⟩ := hbroken
    exact absurd (h.pos_le hs) hpast.not_ge
  · exact ⟨_, he⟩

/-- Settles O49 (R240), by the agent that moves. -/
theorem nothingHaltsTheBlock : Obligations.NothingHaltsTheBlock := by
  intro s h
  obtain ⟨-, he⟩ | ⟨-, he⟩ | ⟨w, -, -, he⟩ | ⟨-, he⟩ | ⟨w, -, -, he⟩ := step_cases s
  · exact ⟨_, he⟩
  · exact ⟨_, he⟩
  · exact he ▸ exists_next_takeWord h.dropInput w
  · exact he ▸ exists_next_seqStep h.dropInput
  · exact he ▸ exists_next_seqStep h.holdInput

end Sys2Proof.Machine
end

section
/-! SUPPORT. A reset in the middle of anything (70_reset_and_hazards.md R260), and the first pass after it, which finds
every cache entry empty (R261): each sample seeds its entry or logs a failed read, and no event is queued. -/

namespace Sys2Proof.Machine

/-- Settles O21 (70_reset_and_hazards.md R260). -/
theorem resetStep : Obligations.ResetStep := by
  intro s more hin
  refine ⟨_, step_reset hin, fun i => ?_, fun i => ?_, rfl, rfl, rfl, rfl, rfl, rfl, rfl, rfl, rfl, rfl, rfl, rfl⟩
  · exact Vector.getElem_replicate i.isLt
  · exact Vector.getElem_replicate i.isLt

/-! ### A sample of an empty entry (41_sampling.md R145, R149) -/

/-- What an answer leaves in an entry that was empty. -/
def seeded {n : Nat} : Answer n → CacheEntry n
  | .ok v => .held v
  | .fail => .empty

/-- What the pass logs of an answer (R145, R149). -/
def failRecords {n : Nat} (sp : Space) (a : Addr) : Answer n → List (BitVec 64)
  | .ok _ => []
  | .fail => [conditionRecord (.busFail sp a 0)]

theorem digitalSampled_of_empty {i : Fin 64} {s : State} (hempty : s.dcache[i] = .empty) (rest : List Frame)
    (r : Answer 1) :
    digitalSampled i rest r s =
      { s with
        dcache := s.dcache.set i.val (seeded r) i.isLt
        stack := .pass ⟨nextCursor (.digital i), []⟩ :: rest
        log := s.log ++ failRecords .digital (digitalAddr i) r } := by
  cases r with
  | ok b => simp [digitalSampled_ok, hempty, seeded, failRecords]
  | fail =>
    have hset : s.dcache.set i.val .empty i.isLt = s.dcache := hempty ▸ Vector.set_getElem_self i.isLt
    simp [digitalSampled_fail, seeded, failRecords, hset]

theorem analogSampled_of_empty {i : Fin 18} {s : State} (hempty : s.acache[i] = .empty) (rest : List Frame)
    (r : Answer 16) :
    analogSampled i rest r s =
      { s with
        acache := s.acache.set i.val (seeded r) i.isLt
        stack := .pass ⟨nextCursor (.analog i), []⟩ :: rest
        log := s.log ++ failRecords .analog (analogAddr i) r } := by
  cases r with
  | ok v => simp [analogSampled_ok, hempty, seeded, failRecords]
  | fail =>
    have hset : s.acache.set i.val .empty i.isLt = s.acache := hempty ▸ Vector.set_getElem_self i.isLt
    simp [analogSampled_fail, seeded, failRecords, hset]

/-! ### What a pass asks for (95_test_vectors.md V36) -/

/-- The accesses of the digital sample step at index i, without their answers (R144). -/
def digitalTargets (i : Fin 64) : List Target :=
  match routeD (digitalAddr i) with
  | .dev d idx => [.readPin d idx]
  | _ => []

/-- Those of the analog sample step at index i (R148, 20_memory.md R56). -/
def analogTargets (cfg : Params) (i : Fin 18) : List Target :=
  if i.val < 16 ∧ cfg.muxChannels ≤ i.val then [] else (analogRecords i .fail).map targetOf

/-- Those of the sample step at a cursor; at `END` there is none. -/
def cursorTargets (cfg : Params) : Cursor → List Target
  | .digital i => digitalTargets i
  | .analog i => analogTargets cfg i
  | .finished => []

/-- The accesses of the next n sample steps from a cursor. -/
def sweepTargets (cfg : Params) : Nat → Cursor → List Target
  | 0, _ => []
  | n + 1, c => cursorTargets cfg c ++ sweepTargets cfg n (nextCursor c)

/-- The accesses of a part of a pass, then of the part that follows it. -/
theorem sweepTargets_add (cfg : Params) (m n : Nat) (c : Cursor) :
    sweepTargets cfg (m + n) c = sweepTargets cfg m c ++ sweepTargets cfg n (nextCursor^[m] c) := by
  induction m generalizing c with
  | zero =>
    rw [Nat.zero_add]
    rfl
  | succ m ih => rw [Nat.add_right_comm, sweepTargets, ih, sweepTargets, List.append_assoc, Function.iterate_succ_apply]

/-- The multiplexer's part of a pass, for either number of channels. -/
theorem sweepTargets_mux (cfg : Params) :
    sweepTargets cfg 16 (.analog 0) =
      ((List.range cfg.muxChannels).map
        (fun c => [Target.select (BitVec.ofNat 4 c), Target.readMux (BitVec.ofNat 4 c)])).flatten := by
  obtain ⟨_, _, _, _, size, _, _, _, _⟩ := cfg
  cases size with
  | eight => rfl
  | sixteen => rfl

/-- A pass's 82 sample steps ask for what V36 lists, device by device. -/
theorem sweepTargets_whole_pass (cfg : Params) : sweepTargets cfg 82 (.digital 0) = passTargets cfg := by
  have hexpA : sweepTargets cfg 16 (.digital 0) = (List.range 16).map (Target.readPin .expA) := rfl
  have hexpB : sweepTargets cfg 16 (.digital 16) = (List.range 16).map (Target.readPin .expB) := rfl
  have hlocal : sweepTargets cfg 16 (.digital 32) = (List.range' 33 14).map (Target.readPin .localBank) := rfl
  have hexpC : sweepTargets cfg 16 (.digital 48) = (List.range 16).map (Target.readPin .expC) := rfl
  have hadc : sweepTargets cfg 2 (.analog 16) = [.readAdc 1, .readAdc 2] := rfl
  rw [passTargets, ← hexpA, ← hexpB, ← hlocal, ← hexpC, ← sweepTargets_mux, ← hadc]
  simp only [show 82 = 16 + (16 + (16 + (16 + (16 + 2)))) from rfl, sweepTargets_add, List.append_assoc]
  rfl

/-- What an access asks for does not depend on its answer. -/
theorem map_targetOf_analogRecords (i : Fin 18) (r : Answer 16) :
    (analogRecords i r).map targetOf = (analogRecords i .fail).map targetOf := by
  unfold analogRecords
  split_ifs <;> rfl

/-! ### Steps that publish nothing -/

/-- From s to t nothing was published, delivered or answered; the devices were asked for ts, and the log has got failed
reads of a pass only. -/
structure Quiet (ts : List Target) (s t : State) : Prop where
  cfg : t.cfg = s.cfg
  registry : t.registry = s.registry
  tickPending : t.tickPending = s.tickPending
  deliv : t.deliv = s.deliv
  resp : t.resp = s.resp
  log : ∃ mid, t.log = s.log ++ mid ∧ ∀ r ∈ mid, ∃ (sp : Space) (a : Addr), r = conditionRecord (.busFail sp a 0)
  targets : t.devhist.map targetOf = s.devhist.map targetOf ++ ts

theorem quiet_refl (s : State) : Quiet [] s s where
  cfg := rfl
  registry := rfl
  tickPending := rfl
  deliv := rfl
  resp := rfl
  log := ⟨[], (List.append_nil _).symm, nofun⟩
  targets := (List.append_nil _).symm

theorem Quiet.trans {ts us : List Target} {s t u : State} (h : Quiet ts s t) (h' : Quiet us t u) :
    Quiet (ts ++ us) s u where
  cfg := h'.cfg.trans h.cfg
  registry := h'.registry.trans h.registry
  tickPending := h'.tickPending.trans h.tickPending
  deliv := h'.deliv.trans h.deliv
  resp := h'.resp.trans h.resp
  log := by
    obtain ⟨mid, hlog, hmid⟩ := h.log
    obtain ⟨mid', hlog', hmid'⟩ := h'.log
    exact ⟨mid ++ mid', by rw [hlog', hlog, List.append_assoc],
      fun r hr => (List.mem_append.1 hr).elim (hmid r) (hmid' r)⟩
  targets := by rw [h'.targets, h.targets, List.append_assoc]

/-- The pass logs failed reads only. -/
theorem failRecords_busFail {n : Nat} {sp : Space} {a : Addr} {r : Answer n} :
    ∀ x ∈ failRecords sp a r, ∃ (sp' : Space) (a' : Addr), x = conditionRecord (.busFail sp' a' 0) := by
  cases r with
  | ok v => nofun
  | fail => exact fun x hx => ⟨sp, a, List.mem_singleton.1 hx⟩

/-! ### The first pass, sample by sample -/

/-- How many addresses the pass visits before the cursor (R143). -/
def Cursor.position : Cursor → Nat
  | .digital i => i.val
  | .analog i => 64 + i.val
  | .finished => 82

theorem Cursor.position_nextCursor {c : Cursor} (h : c.position < 82) :
    (nextCursor c).position = c.position + 1 := by
  cases c with
  | digital i =>
    simp only [nextCursor]
    split_ifs with hi
    · rfl
    · have := i.isLt
      simp only [Cursor.position, Fin.val_zero]
      omega
  | analog i =>
    simp only [nextCursor]
    split_ifs with hi
    · rfl
    · have := i.isLt
      simp only [Cursor.position]
      omega
  | finished => exact absurd h (lt_irrefl _)

theorem Cursor.eq_finished {c : Cursor} (h : c.position = 82) : c = .finished := by
  cases c with
  | digital i => exact absurd h (by have := i.isLt; simp only [Cursor.position]; omega)
  | analog i => exact absurd h (by have := i.isLt; simp only [Cursor.position]; omega)
  | finished => rfl

/-- A first pass at a cursor: no event waits, the entries from the cursor on are empty, and behind it the reserved
addresses hold their constant 0 (R151). -/
structure FirstPassAt (c : Cursor) (s : State) : Prop where
  stack : s.stack = [.pass ⟨c, []⟩]
  digitalEmpty : ∀ j : Fin 64, c.position ≤ j.val → s.dcache[j] = .empty
  analogEmpty : ∀ j : Fin 18, c.position ≤ 64 + j.val → s.acache[j] = .empty
  reserved : ∀ j : Fin 64, j = 46 ∨ j = 47 → j.val < c.position → s.dcache[j] = .held 0

/-- The digital sample step of an empty entry, by the answer it gets and the access it makes (R144, R145). -/
theorem sampleDigital_of_empty {i : Fin 64} {s : State} (hempty : s.dcache[i] = .empty) (rest : List Frame) :
    ∃ r dev draws count,
      sampleDigital i rest s = { s with
        dcache := s.dcache.set i.val (seeded r) i.isLt
        stack := .pass ⟨nextCursor (.digital i), []⟩ :: rest
        log := s.log ++ failRecords .digital (digitalAddr i) r
        devhist := dev
        draws := draws
        drawCount := count } ∧
      dev.map targetOf = s.devhist.map targetOf ++ digitalTargets i ∧ (i = 46 ∨ i = 47 → r = .ok 0) := by
  have hres := routeD_digitalAddr_reserved i
  have hout := routeD_digitalAddr_ne_outOfRange i
  unfold sampleDigital digitalTargets
  cases h : routeD (digitalAddr i) with
  | dev d idx =>
    have hread : (devRead d idx s).dcache[i] = .empty := hempty
    refine ⟨_, _, _, _, digitalSampled_of_empty hread rest _, List.map_append, fun hi => ?_⟩
    exact absurd (hres.2 hi) (by simp [h])
  | reserved =>
    exact ⟨_, _, _, _, digitalSampled_of_empty hempty rest _, (List.append_nil _).symm, fun _ => rfl⟩
  | outOfRange => exact absurd h hout

theorem map_targetOf_analogAccess (i : Fin 18) (s : State) :
    (analogAccess i s).devhist.map targetOf = s.devhist.map targetOf ++ analogTargets s.cfg i := by
  unfold analogAccess analogTargets
  split_ifs
  · exact (List.append_nil _).symm
  · rw [emitDev_devhist, List.map_append, map_targetOf_analogRecords]
    rfl

section
variable {s : State} {more : List Input}

theorem FirstPassAt.exists_step_digital {i : Fin 64} (h : FirstPassAt (.digital i) s) (hin : s.inputs = .seq :: more) :
    ∃ u, step s = .next u ∧ u.inputs = more ∧ FirstPassAt (nextCursor (.digital i)) u ∧
      Quiet (digitalTargets i) s u := by
  have hpos : (nextCursor (.digital i)).position = i.val + 1 :=
    Cursor.position_nextCursor (c := .digital i) (i.isLt.trans (by decide))
  have hstep : step s = .next (sampleDigital i [] { s with inputs := more }) := step_pass h.stack hin
  obtain ⟨r, dev, draws, count, hsample, htargets, hreserved⟩ :=
    sampleDigital_of_empty (s := { s with inputs := more }) (h.digitalEmpty i le_rfl) []
  rw [hsample] at hstep
  refine ⟨_, hstep, rfl, ⟨rfl, fun j hj => ?_, fun j _ => ?_, fun j hj hlt => ?_⟩,
    ⟨rfl, rfl, rfl, rfl, rfl, ⟨_, rfl, failRecords_busFail⟩, htargets⟩⟩
  · rw [hpos] at hj
    exact (Vector.getElem_set_ne i.isLt j.isLt (by omega)).trans (h.digitalEmpty j (Nat.le_of_succ_le hj))
  · exact h.analogEmpty j (i.isLt.le.trans (Nat.le_add_right _ _))
  · rw [hpos] at hlt
    by_cases hji : j = i
    · subst hji
      rw [hreserved hj]
      exact Vector.getElem_set_self j.isLt
    · have hne : j.val ≠ i.val := fun hv => hji (Fin.ext hv)
      have hbefore : j.val < i.val := by omega
      exact (Vector.getElem_set_ne i.isLt j.isLt hne.symm).trans (h.reserved j hj hbefore)

theorem FirstPassAt.exists_step_analog {i : Fin 18} (h : FirstPassAt (.analog i) s) (hin : s.inputs = .seq :: more) :
    ∃ u, step s = .next u ∧ u.inputs = more ∧ FirstPassAt (nextCursor (.analog i)) u ∧
      Quiet (analogTargets s.cfg i) s u := by
  have hpos : (nextCursor (.analog i)).position = 64 + i.val + 1 :=
    Cursor.position_nextCursor (c := .analog i) (Nat.add_lt_add_left i.isLt 64)
  have hstep : step s = .next (sampleAnalog i [] { s with inputs := more }) := step_pass h.stack hin
  rw [sampleAnalog_eq, analogAccess_frame, analogSampled_of_empty (by exact h.analogEmpty i le_rfl)] at hstep
  refine ⟨_, hstep, rfl, ⟨rfl, fun j hj => ?_, fun j hj => ?_, fun j hj _ => ?_⟩,
    ⟨rfl, rfl, rfl, rfl, rfl, ⟨_, rfl, failRecords_busFail⟩, map_targetOf_analogAccess i s⟩⟩
  · rw [hpos] at hj
    omega
  · rw [hpos] at hj
    exact (Vector.getElem_set_ne i.isLt j.isLt (by omega)).trans (h.analogEmpty j (Nat.le_of_succ_le hj))
  · exact h.reserved j hj (j.isLt.trans_le (Nat.le_add_right _ _))

/-- A sample step of a first pass moves the cursor on and publishes nothing, whatever the answer. -/
theorem FirstPassAt.exists_step {c : Cursor} (h : FirstPassAt c s) (hc : c.position < 82)
    (hin : s.inputs = .seq :: more) :
    ∃ u, step s = .next u ∧ u.inputs = more ∧ FirstPassAt (nextCursor c) u ∧ Quiet (cursorTargets s.cfg c) s u := by
  cases c with
  | digital i => exact h.exists_step_digital hin
  | analog i => exact h.exists_step_analog hin
  | finished => exact absurd hc (lt_irrefl _)

/-- The sample steps that are left take a first pass to its end. -/
theorem FirstPassAt.exists_steps {n : Nat} {c : Cursor} (h : FirstPassAt c s) (hn : c.position + n = 82)
    (hin : s.inputs = List.replicate n .seq ++ more) :
    ∃ u, steps n s = .next u ∧ u.inputs = more ∧ FirstPassAt .finished u ∧ Quiet (sweepTargets s.cfg n c) s u := by
  induction n generalizing s c with
  | zero => exact ⟨s, rfl, hin, Cursor.eq_finished hn ▸ h, quiet_refl s⟩
  | succ n ih =>
    have hc : c.position < 82 := by omega
    obtain ⟨t, hst, htin, ht, hquiet⟩ := h.exists_step hc hin
    have hleft : (nextCursor c).position + n = 82 := by
      rw [Cursor.position_nextCursor hc]
      omega
    obtain ⟨u, htu, huin, hu, hquiet'⟩ := ih ht hleft htin
    rw [hquiet.cfg] at hquiet'
    exact ⟨u, (steps_of_next hst).trans htu, huin, hu, hquiet.trans hquiet'⟩

end

/-- A pass that starts with empty caches is a first pass at its first cursor. -/
theorem firstPassAt_passStart {s : State} (hd : ∀ i : Fin 64, s.dcache[i] = .empty)
    (ha : ∀ i : Fin 18, s.acache[i] = .empty) : FirstPassAt (.digital 0) (passStart s) where
  stack := rfl
  digitalEmpty j _ := hd j
  analogEmpty j _ := ha j
  reserved _ _ := nofun

/-- Settles O57 (70_reset_and_hazards.md R261, 41_sampling.md R143, R152): the pass start, the 82 sample steps and the
pass end. -/
theorem firstPassPublishesNothing : Obligations.FirstPassPublishesNothing := by
  intro s more hs htick hd ha hin
  have hmoves : s.inputs = .seq :: (List.replicate 82 .seq ++ .seq :: more) := by
    rw [hin, List.append_cons, ← List.replicate_succ']
    rfl
  have hstart := passStartStep s _ hs htick hmoves
  have hfirst := firstPassAt_passStart (s := { s with inputs := List.replicate 82 .seq ++ .seq :: more }) hd ha
  obtain ⟨t, hsweep, htin, ht, hquiet⟩ := hfirst.exists_steps (n := 82) rfl rfl
  obtain ⟨mid, hlog, hmid⟩ := hquiet.log
  have hlogged : t.log = s.log ++ passStartRecord :: mid := hlog.trans (List.append_cons s.log passStartRecord mid).symm
  have hend := passEndStep t [] more ht.stack htin
  have hsteps : steps 84 s = step t :=
    calc steps 84 s = steps 83 _ := steps_of_next hstart
      _ = steps 1 t := steps_add (m := 82) (n := 1) hsweep
      _ = step t := steps_one t
  refine ⟨_, mid, hsteps.trans hend, rfl, hquiet.tickPending, rfl, hquiet.registry, hquiet.deliv, hquiet.resp, ?_,
    hmid, ?_, ht.reserved 46 (.inl rfl) (by decide), ht.reserved 47 (.inr rfl) (by decide)⟩
  · exact congrArg (· ++ [passEndRecord]) hlogged
  · exact sweepTargets_whole_pass s.cfg ▸ hquiet.targets

end Sys2Proof.Machine
end
